-- ==== Sys2Proof/Word.lean ====
section
/-! DEFINITION. The words PFR moves: command and response words, operands, device registers, and the two index types. -/

namespace Sys2Proof

/-- A command word, as the host offers it on `cmd` (R9, R70). -/
abbrev CommandWord := BitVec 64

/-- A response word, as PFR places it on `rsp` (R9, R75). -/
abbrev ResponseWord := BitVec 64

/-- The operand field `opd` of a command, and the `result` field of a response (R70, R75). -/
abbrev Operand := BitVec 48

/-- An address of the device register space (R50). -/
abbrev RegAddr := BitVec 8

/-- The contents of one device register (R50, R54). -/
abbrev RegValue := BitVec 16

/-- One byte of an I2C transaction (R53). -/
abbrev Byte := BitVec 8

/-- A channel, 0..19 (R5 `N_CHANNELS`, R72). -/
abbrev Channel := Fin 20

/-- A timer, 0..6 (R5 `N_TIMERS`, R100). -/
abbrev TimerIndex := Fin 7

end Sys2Proof
end

