-- ==== Sys2Proof/Config.lean ====
section
/-! DEFINITION. The implementation parameters of 00_scope.md R5 at the values every rule uses, and the open parameters no
rule of PFR reads (92_eei_decisions.md D29, D30). The open parameter `CONFLICT_CHECK` (R6) is part of the state (R20). -/

namespace Sys2Proof.Config

/-- `CLOCK_HZ` (R5). -/
def clockHz : Nat := 72000000

/-- `SEARCH_BACKOFF` (R5). -/
def searchBackoff : Nat := 5

/-- `SEARCH_WIDTH` (R5). -/
def searchWidth : Nat := 10

/-- `REG_MAX`, the largest value of a 16-bit register (R5). -/
def regMax : Nat := 65535

/-- `PW_REG_BASE` (R5). -/
def pwRegBase : Nat := 0x20

/-- `PSC_REG_BASE` (R5). -/
def pscRegBase : Nat := 0x40

/-- `PSC2_REG_BASE` (R5). -/
def psc2RegBase : Nat := 0x50

/-- `ARR_REG_BASE` (R5). -/
def arrRegBase : Nat := 0x44

/-- `ARR2_REG_BASE` (R5). -/
def arr2RegBase : Nat := 0x54

/-- `SERVO_FREQ_HZ`, the nominal carrier (R5). SERVO_INIT programs `servoPrescaler` and `servoPeriod` (R162, C6). -/
def servoFreqHz : Nat := 50

/-- `SERVO_PERIOD` (R5). -/
def servoPeriod : Nat := 4095

/-- `SERVO_PRESCALER` (R5, D9). -/
def servoPrescaler : Nat := 352

/-- `SERVO_MIN_US` (R5). -/
def servoMinUs : Nat := 500

/-- `SERVO_MAX_US` (R5). -/
def servoMaxUs : Nat := 2500

/-- `SERVO_FRAME_US` (R5). -/
def servoFrameUs : Nat := 20000

/-- `ANGLE_MIN_DEG` (R5). -/
def angleMinDeg : Int := -90

/-- `ANGLE_MAX_DEG` (R5). -/
def angleMaxDeg : Int := 90

/-- `2 ^ FREQ_FRAC_BITS`: a FREQ operand counts units of 1/65536 Hz (R5, R74). -/
def freqScale : Nat := 2 ^ 16

/-- `2 ^ PCT_FRAC_BITS`: a PCT operand counts units of 1/65536 percent (R5, R74). -/
def pctScale : Nat := 2 ^ 16

/-- `2 ^ ANGLE_FRAC_BITS`: an ANGLE operand counts units of 1/256 degree (R5, R74). -/
def angleScale : Nat := 2 ^ 8

/-- `K` of the resolver, `CLOCK_HZ * 2^16` (R102). -/
def freqK : Nat := clockHz * freqScale

/-- `BUS_RETRY_LIMIT`, a property of the RegisterBus and not of PFR (R5, R207). PFR sees one answer per write. -/
def busRetryLimit : Nat := 5

/-- When a device applies a written register to its waveform (R246, D30). -/
inductive ApplyPolicy where
  /-- At once. -/
  | immediate
  /-- At the next period boundary. -/
  | periodBoundary
  deriving DecidableEq, Repr, Inhabited

/-- `DEVICE_ADDR`, OPEN (D29): the RegisterBus's I2C address of the device. PFR never uses it (R59). Free: no body. -/
opaque deviceAddr : Nat

/-- `APPLY_POLICY`, OPEN (D30): a parameter of any waveform model, which must admit both. No rule of PFR depends on it
(R246). Free: no body. -/
opaque applyPolicy : ApplyPolicy

end Sys2Proof.Config
end

