-- ==== Sys2Proof/Syntax.lean ====
section
/-! DEFINITION. The commands of PFR-CMD version 1 (30_encoding.md R70 to R74): the opcodes, their operand formats, and the
instruction type, one constructor per row of spec/opcode_table.json. -/

namespace Sys2Proof

/-- The operand formats of R74. -/
inductive OperandFormat where
  /-- Must be 0. -/
  | zero
  /-- UQ32.16 Hz. -/
  | freq
  /-- Unsigned integer. -/
  | uint
  /-- 48-bit two's-complement integer. -/
  | sint
  /-- UQ32.16 percent. -/
  | pct
  /-- 48-bit two's complement, 1/256 degree. -/
  | angle
  deriving DecidableEq, Repr

/-- The fourteen opcodes of R73. -/
inductive Opcode where
  | setFreq | getFreq | setPeriod | getPeriod | setPrescaler | getPrescaler
  | setPw | getPw | setPwPct | getPwPct
  | servoInit | servoAngle | getAngle
  | getSync
  deriving DecidableEq, Repr

/-- A command that has passed the checks of R71. Its channel is one of the twenty (R72); an opcode of format ZERO carries no
operand, every other one its raw 48-bit operand field (R74). -/
inductive Instr where
  /-- SET_FREQ (R107). -/
  | setFreq (c : Channel) (opd : Operand)
  /-- GET_FREQ (R111). -/
  | getFreq (c : Channel)
  /-- SET_PERIOD (R112). -/
  | setPeriod (c : Channel) (opd : Operand)
  /-- GET_PERIOD (R113). -/
  | getPeriod (c : Channel)
  /-- SET_PRESCALER (R114). -/
  | setPrescaler (c : Channel) (opd : Operand)
  /-- GET_PRESCALER (R115). -/
  | getPrescaler (c : Channel)
  /-- SET_PW (R140). -/
  | setPw (c : Channel) (opd : Operand)
  /-- GET_PW (R141). -/
  | getPw (c : Channel)
  /-- SET_PW_PCT (R142). -/
  | setPwPct (c : Channel) (opd : Operand)
  /-- GET_PW_PCT (R143). -/
  | getPwPct (c : Channel)
  /-- SERVO_INIT (R162). -/
  | servoInit (c : Channel)
  /-- SERVO_ANGLE (R163). -/
  | servoAngle (c : Channel) (opd : Operand)
  /-- GET_ANGLE (R164). -/
  | getAngle (c : Channel)
  /-- GET_SYNC (R180). -/
  | getSync (c : Channel)
  deriving DecidableEq, Repr

/-- The channel a command names (R72: every opcode takes one). -/
def Instr.channel : Instr → Channel
  | .setFreq c _ | .getFreq c | .setPeriod c _ | .getPeriod c | .setPrescaler c _ | .getPrescaler c
  | .setPw c _ | .getPw c | .setPwPct c _ | .getPwPct c | .servoInit c | .servoAngle c _ | .getAngle c
  | .getSync c => c

end Sys2Proof
end

