-- ==== Sys2Proof/WellFormed.lean ====
section
/-! DEFINITION. The four fields of a command word (R70) and which field values are legal (R71, R77). -/

namespace Sys2Proof

/-- The fields of a command word of format C (R70). -/
structure Fields where
  /-- Opcode, bits 63:60. -/
  op : BitVec 4
  /-- Channel number, bits 59:55. -/
  ch : BitVec 5
  /-- Reserved, bits 54:48. -/
  rsv : BitVec 7
  /-- Operand, bits 47:0. -/
  opd : Operand
  deriving DecidableEq, Repr

/-- Why a command word does not decode, one reason per test of R71. The response is ILLEGAL whichever it is. -/
inductive IllegalReason where
  /-- `op` is 0x0 or 0xF. -/
  | reservedOpcode
  /-- `ch` is 20..31. -/
  | noSuchChannel
  /-- `rsv` is not 0. -/
  | reservedBits
  /-- An opcode of format ZERO with an operand that is not 0. -/
  | nonzeroOperand
  deriving DecidableEq, Repr

/-- `ZERO_OPERAND_OPS` of R71, by opcode value: GET_FREQ, GET_PERIOD, GET_PRESCALER, GET_PW, GET_PW_PCT, SERVO_INIT,
GET_ANGLE, GET_SYNC. -/
def zeroOperandOps : List (BitVec 4) := [0x2, 0x4, 0x6, 0x8, 0xA, 0xB, 0xD, 0xE]

/-- The opcode is not one of the two reserved ones (R77). -/
def Fields.legalOpcode (f : Fields) : Bool := f.op != 0x0 && f.op != 0xF

/-- The channel exists (R70, R77). -/
def Fields.legalChannel (f : Fields) : Bool := decide (f.ch.toNat < 20)

/-- The reserved bits are 0 (R70, R77). -/
def Fields.legalReserved (f : Fields) : Bool := f.rsv == 0

/-- The operand of a format ZERO opcode is 0 (R77). -/
def Fields.legalOperand (f : Fields) : Bool := !(zeroOperandOps.contains f.op) || f.opd == 0

/-- The fields of a legal command: every word R77 does not list as illegal. -/
def Fields.wellFormed (f : Fields) : Bool :=
  f.legalOpcode && f.legalChannel && f.legalReserved && f.legalOperand

end Sys2Proof
end

