-- ==== Sys2Proof/Decode.lean ====
section
/-! DEFINITION. The decoder of R71, total on 64-bit words and rejecting by name, then the encoder, both from the tables of
R70, R73 and R74. -/

namespace Sys2Proof

/-- The fields of a command word (R70). -/
def splitWord (w : CommandWord) : Fields where
  op := w.extractLsb' 60 4
  ch := w.extractLsb' 55 5
  rsv := w.extractLsb' 48 7
  opd := w.extractLsb' 0 48

/-- The opcode map, read from an opcode value (R73). -/
def opcodeOf (op : BitVec 4) : Option Opcode :=
  match op.toNat with
  | 0x1 => some .setFreq
  | 0x2 => some .getFreq
  | 0x3 => some .setPeriod
  | 0x4 => some .getPeriod
  | 0x5 => some .setPrescaler
  | 0x6 => some .getPrescaler
  | 0x7 => some .setPw
  | 0x8 => some .getPw
  | 0x9 => some .setPwPct
  | 0xA => some .getPwPct
  | 0xB => some .servoInit
  | 0xC => some .servoAngle
  | 0xD => some .getAngle
  | 0xE => some .getSync
  | _ => none

/-- The operand format column of the opcode map (R73). -/
def Opcode.format : Opcode → OperandFormat
  | .setFreq => .freq
  | .getFreq => .zero
  | .setPeriod => .uint
  | .getPeriod => .zero
  | .setPrescaler => .uint
  | .getPrescaler => .zero
  | .setPw => .sint
  | .getPw => .zero
  | .setPwPct => .pct
  | .getPwPct => .zero
  | .servoInit => .zero
  | .servoAngle => .angle
  | .getAngle => .zero
  | .getSync => .zero

/-- The command an opcode makes of a channel and an operand field. A format ZERO opcode carries no operand. -/
def Opcode.instr (o : Opcode) (c : Channel) (opd : Operand) : Instr :=
  match o with
  | .setFreq => .setFreq c opd
  | .getFreq => .getFreq c
  | .setPeriod => .setPeriod c opd
  | .getPeriod => .getPeriod c
  | .setPrescaler => .setPrescaler c opd
  | .getPrescaler => .getPrescaler c
  | .setPw => .setPw c opd
  | .getPw => .getPw c
  | .setPwPct => .setPwPct c opd
  | .getPwPct => .getPwPct c
  | .servoInit => .servoInit c
  | .servoAngle => .servoAngle c opd
  | .getAngle => .getAngle c
  | .getSync => .getSync c

/-- The decode checks of R71 on the fields of a word, in the rule's order, then the dispatch on the opcode. -/
def decodeFields (f : Fields) : Except IllegalReason Instr :=
  match opcodeOf f.op with
  | none => .error .reservedOpcode
  | some o =>
    if h : f.ch.toNat < 20 then
      if f.rsv ≠ 0 then .error .reservedBits
      else if o.format = .zero ∧ f.opd ≠ 0 then .error .nonzeroOperand
      else .ok (o.instr ⟨f.ch.toNat, h⟩ f.opd)
    else .error .noSuchChannel

/-- The decoder: every 64-bit word gives its command or the reason it is ILLEGAL (R71, R77). -/
def decode (w : CommandWord) : Except IllegalReason Instr := decodeFields (splitWord w)

/-- The instruction the decoder reads from a word of the opcode table: `w` holds the low `nbits` bits of the command word,
whose bit 0 is the word's least significant bit (R12, R70); the bits above are 0. -/
def decodeTableWord (nbits w : Nat) : Option Instr :=
  match decode (BitVec.ofNat 64 (w % 2 ^ nbits)) with
  | .ok i => some i
  | .error _ => none

/-- The opcode map, written as an opcode value (R73). -/
def Opcode.code : Opcode → BitVec 4
  | .setFreq => 0x1
  | .getFreq => 0x2
  | .setPeriod => 0x3
  | .getPeriod => 0x4
  | .setPrescaler => 0x5
  | .getPrescaler => 0x6
  | .setPw => 0x7
  | .getPw => 0x8
  | .setPwPct => 0x9
  | .getPwPct => 0xA
  | .servoInit => 0xB
  | .servoAngle => 0xC
  | .getAngle => 0xD
  | .getSync => 0xE

/-- The opcode of a command. -/
def Instr.opcode : Instr → Opcode
  | .setFreq _ _ => .setFreq
  | .getFreq _ => .getFreq
  | .setPeriod _ _ => .setPeriod
  | .getPeriod _ => .getPeriod
  | .setPrescaler _ _ => .setPrescaler
  | .getPrescaler _ => .getPrescaler
  | .setPw _ _ => .setPw
  | .getPw _ => .getPw
  | .setPwPct _ _ => .setPwPct
  | .getPwPct _ => .getPwPct
  | .servoInit _ => .servoInit
  | .servoAngle _ _ => .servoAngle
  | .getAngle _ => .getAngle
  | .getSync _ => .getSync

/-- The operand field of a command, 0 where the format is ZERO (R74). -/
def Instr.operand : Instr → Operand
  | .setFreq _ opd | .setPeriod _ opd | .setPrescaler _ opd | .setPw _ opd | .setPwPct _ opd
  | .servoAngle _ opd => opd
  | .getFreq _ | .getPeriod _ | .getPrescaler _ | .getPw _ | .getPwPct _ | .servoInit _ | .getAngle _
  | .getSync _ => 0

/-- The fields that encode a command (R70). -/
def Instr.fields (i : Instr) : Fields where
  op := i.opcode.code
  ch := BitVec.ofNat 5 i.channel.val
  rsv := 0
  opd := i.operand

/-- A command is well formed when its fields are. The types of `Instr` leave no other command. -/
def Instr.wellFormed (i : Instr) : Bool := i.fields.wellFormed

/-- The word of four fields, most significant first (R70). -/
def joinFields (f : Fields) : CommandWord := f.op ++ f.ch ++ f.rsv ++ f.opd

/-- The command word of a command (R70, R73, R74). -/
def encode (i : Instr) : CommandWord := joinFields i.fields

end Sys2Proof
end

