-- ==== Sys2Proof/Machine/State.lean ====
section
/-! DEFINITION. The state of the machine: PFR's architectural state (10_state.md R20, R21), the device register space it
writes (20_memory.md R50), and the events of its four ports (00_scope.md R9, R10), all plain data; and the state after reset
(70_reset_and_hazards.md R230 to R234). -/

namespace Sys2Proof.Machine

/-- A channel's claim on its timer's configuration, `req[c]` (R26). -/
inductive Claim where
  /-- `NONE`: the channel claims no configuration. -/
  | unclaimed
  /-- `FREQ(F)`: its last SET_FREQ, with the UQ32.16 frequency F, programmed the timer completely. -/
  | freq (f : Operand)
  /-- `SERVO`: its last SERVO_INIT programmed the timer completely. -/
  | servo
  deriving DecidableEq, Repr

/-- The shadow registers of one timer and their sync flags (R21 to R25). -/
structure TimerRegs where
  /-- `psc[t]`, the divider p and not its register image p - 1; `none` is `UNSET` (R23). -/
  psc : Option RegValue
  /-- `arr[t]`, the period (R22). -/
  arr : RegValue
  /-- `psc_uns[t]`: the prescaler register is unsynced (R25). -/
  pscUns : Bool
  /-- `arr_uns[t]`: the period register is unsynced (R25). -/
  arrUns : Bool
  deriving DecidableEq, Repr

/-- The registers of one channel (R21, R25 to R29). -/
structure ChannelRegs where
  /-- `pw[c]`; `none` is `UNSET` (R27). -/
  pw : Option RegValue
  /-- `pct[c]`, UQ32.16 percent; `none` is `NONE` (R28). -/
  pct : Option Operand
  /-- `angle[c]`, in 1/256 degree; `none` is `UNSET` (R29). -/
  angle : Option Int
  /-- `req[c]` (R26). -/
  req : Claim
  /-- `pw_uns[c]`: the pulse-width register is unsynced (R25). -/
  pwUns : Bool
  deriving DecidableEq, Repr

/-- The sequencer phase (R31). -/
inductive Phase where
  /-- PFR can accept a command. -/
  | idle
  /-- From acceptance until the response is delivered. -/
  | busy
  deriving DecidableEq, Repr

/-- One request on `bus_req`: a register address and a 16-bit value (R9, R52). -/
structure BusRequest where
  reg : RegAddr
  value : RegValue
  deriving DecidableEq, Repr

/-- The Bus's answer to a write on `bus_ack` (R9, R52); `BusAnswer.ack` is its bit. -/
inductive BusAnswer where
  | ok
  | fail
  deriving DecidableEq, Repr

/-- A bus event `(reg, value, answer)` (R10). The answer is `none` when a whole-block reset came first (R233). -/
structure BusRecord where
  request : BusRequest
  answer : Option BusAnswer
  deriving DecidableEq, Repr

/-- What can happen while a write is outstanding. -/
inductive BusEvent where
  /-- The Bus answers `OK` (R52). -/
  | ok
  /-- The Bus answers `FAIL` (R52). -/
  | fail
  /-- The whole-block reset is asserted; the write gets no answer PFR sees (R233). -/
  | reset
  /-- The Bus answers `OK`, and the whole-block reset is asserted before PFR does anything more: before the command's next
  write or its response (R233). -/
  | okThenReset
  /-- The device alone is reset, which PFR cannot see; the write is still outstanding (R235). -/
  | deviceReset
  deriving DecidableEq, Repr

/-- What can happen while PFR is `IDLE`. -/
inductive HostEvent where
  /-- The host offers a command word (R9). -/
  | command (w : CommandWord)
  /-- The host offers a command word, and the whole-block reset is asserted at the end of its BUSY phase, before its
  response is delivered (R233). -/
  | commandThenReset (w : CommandWord)
  /-- The whole-block reset is asserted (R230). -/
  | reset
  /-- The device alone is reset (R235). -/
  | deviceReset
  deriving DecidableEq, Repr

/-- What may be assumed of the device registers (R56): a cell `(a, v)` says that register `a` holds `v`; of an address with
no cell the contents are unknown, any 16-bit value. The cells' addresses are strictly rising. A cell is 16 bits wide because
the space's smallest unit is the whole register (R50, R54, R55). -/
abbrev Memory := List (Nat × RegValue)

/-- The canonical form of the device contents: addresses strictly rising and inside the 8-bit space (R50). No cell can equal
what an unlisted address reads as, since that is no value. -/
abbrev Memory.wf (m : Memory) : Prop :=
  m.Pairwise (fun a b => a.1 < b.1) ∧ ∀ cell ∈ m, cell.1 < 256

/-- The state of the machine. The first five fields are PFR's own (R20, R31); the others are the world around it that a step
reads or extends (R10). -/
structure State where
  /-- The timer bank, by timer index (R20). -/
  timers : Vector TimerRegs 7
  /-- The channel file, by channel number (R20). -/
  channels : Vector ChannelRegs 20
  /-- The sequencer phase (R31). -/
  phase : Phase
  /-- The bus write that has no answer yet, at most one (R31). -/
  outstanding : Option BusRequest
  /-- `CONFLICT_CHECK` (R6, R20): no command and no reset changes it (R234). -/
  conflictCheck : Bool
  /-- The device register space (R50, R56). -/
  device : Memory
  /-- The host's events still to come, first at the head (R9, R11). -/
  inbox : List HostEvent
  /-- What will happen while writes are outstanding, first at the head (R10); the end of the list is a Bus that never answers
  again (R209). -/
  busEvents : List BusEvent
  /-- The bus events so far, oldest first (R10, R61). -/
  busLog : List BusRecord
  /-- The response words delivered so far, oldest first (R10). -/
  responses : List ResponseWord
  deriving DecidableEq, Repr

/-- A timer after reset (R231). -/
def TimerRegs.reset : TimerRegs where
  psc := none
  arr := 1
  pscUns := true
  arrUns := true

/-- A channel after reset (R232). -/
def ChannelRegs.reset : ChannelRegs where
  pw := none
  pct := none
  angle := none
  req := .unclaimed
  pwUns := true

/-- A PFR instance right after reset (R230 to R233), for either value of its parameter `CONFLICT_CHECK` (R6, R234), with
nothing known of the device (R56) and no event at its ports. -/
def State.resetWith (conflictCheck : Bool) : State where
  timers := Vector.replicate 7 .reset
  channels := Vector.replicate 20 .reset
  phase := .idle
  outstanding := none
  conflictCheck := conflictCheck
  device := []
  inbox := []
  busEvents := []
  busLog := []
  responses := []

/-- The machine right after reset. DESIGN CHOICE (log 5): the instance with `CONFLICT_CHECK = false`; the specification fixes
no value. Unsafe. -/
def State.reset : State := State.resetWith false

/-- Why a step stops the machine. -/
inductive Fault where
  /-- Raised by `step` in a BUSY state: the Bus never answers the outstanding write, and PFR has no step (R209). Safe: the
  specification says that nothing more happens. -/
  | busNeverAnswers
  deriving DecidableEq, Repr

/-- Why an instruction has no meaning. -/
inductive Refusal where
  /-- Raised by `exec` for an instruction that is not modelled yet. Safe. No arm of `exec` answers it: every instruction is
  modelled. -/
  | notModelled (mnemonic : String)
  deriving DecidableEq, Repr

/-- What a command's execution answers. -/
abbrev Result := Host.Outcome State Fault Refusal

end Sys2Proof.Machine
end

