-- ==== Sys2Proof/Machine/Operands.lean ====
section
/-! DEFINITION. The readings of the operand field (30_encoding.md R74), the exact arithmetic of 00_scope.md R13 and R14, the
channel map (40_timer.md R100) and the angle map (42_servo.md R160). -/

namespace Sys2Proof.Machine

/-- Format FREQ: `F = opd`, unsigned, in units of 2^-16 Hz (R74). -/
def freqOperand (opd : Operand) : Nat := opd.toNat

/-- Format UINT: an unsigned integer (R74). -/
def uintOperand (opd : Operand) : Nat := opd.toNat

/-- Format PCT: `P = opd`, unsigned, in units of 2^-16 percent (R74). -/
def pctOperand (opd : Operand) : Nat := opd.toNat

/-- Format SINT: `sext_48(opd)` (R74). -/
def sintOperand (opd : Operand) : Int := opd.toInt

/-- Format ANGLE: `sext_48(opd)`, in units of 1/256 degree (R74). -/
def angleOperand (opd : Operand) : Int := opd.toInt

/-- `clamp(v, lo, hi)` (R14). -/
def clamp (v lo hi : Int) : Int := if v < lo then lo else if v > hi then hi else v

/-- Digit by digit search of a square root: `r` is the root found so far, `b` bits are left to try. -/
def isqrtFrom (n : Nat) : Nat → Nat → Nat
  | 0, r => r
  | b + 1, r => if (r + 2 ^ b) * (r + 2 ^ b) ≤ n then isqrtFrom n b (r + 2 ^ b) else isqrtFrom n b r

/-- `isqrt(n)`: the largest s with s * s ≤ n (R13). -/
def isqrt (n : Nat) : Nat := isqrtFrom n (n.log2 / 2 + 1) 0

/-- `rne` of the exact non-negative rational `num / den` (R13): the nearest integer, ties to even. -/
def rne (num den : Nat) : Nat :=
  let n := num / den
  let r := num % den
  if 2 * r < den then n
  else if 2 * r > den then n + 1
  else if n % 2 = 0 then n else n + 1

/-- `timer_of(c)` (R100). -/
def timerOf (c : Channel) : TimerIndex :=
  if h : c.val < 16 then ⟨c.val / 4, by omega⟩
  else if c.val < 18 then 4
  else if c.val = 18 then 5
  else 6

/-- `c'` is a sibling of `c` (R16): another channel of the same timer group. -/
abbrev Sibling (c c' : Channel) : Prop := c' ≠ c ∧ timerOf c' = timerOf c

/-- The angle clamped to ±90 degrees, in 1/256 degree (R160, R163). -/
def clampAngle (a : Int) : Int :=
  clamp a (Config.angleMinDeg * Config.angleScale) (Config.angleMaxDeg * Config.angleScale)

/-- `servo_count(A)` (R160): `rne(pulse_us / SERVO_FRAME_US * SERVO_PERIOD)` with
`pulse_us = SERVO_MIN_US + (a/256 + 90) / 180 * (SERVO_MAX_US - SERVO_MIN_US)`, as one exact fraction. `u` is the clamped
angle above -90 degrees and `span` the 180 degrees, both in 1/256 degree. -/
def servoCount (a : Int) : Nat :=
  let u := (clampAngle a - Config.angleMinDeg * Config.angleScale).toNat
  let span := ((Config.angleMaxDeg - Config.angleMinDeg) * Config.angleScale).toNat
  rne ((Config.servoMinUs * span + u * (Config.servoMaxUs - Config.servoMinUs)) * Config.servoPeriod)
    (span * Config.servoFrameUs)

/-- The pulse-width count of a percentage `P` of the period `arr` (R142, R110): `rne(P * arr / (100 * 2^16))`. -/
def pctCount (P : Nat) (arr : RegValue) : Nat := rne (P * arr.toNat) (100 * Config.pctScale)

/-- The achieved frequency in UQ32.16 Hz, rounded down (R106): `floor(CLOCK_HZ * 2^16 / (psc * arr))`. -/
def achievedUq (psc arr : RegValue) : Nat := Config.freqK / (psc.toNat * arr.toNat)

end Sys2Proof.Machine
end

