-- ==== Sys2Proof/Machine/Flags.lean ====
section
/-! DEFINITION. What a bus answer does to the shadow of a register and to its sync flag (10_state.md R24, R25), and the sync
flags as GET_SYNC packs them (43_status.md R180). PFR has no other flags (R30). -/

namespace Sys2Proof.Machine

/-- The prescaler write of divider `p` was answered `OK`. -/
def TimerRegs.ackPsc (p : Nat) (r : TimerRegs) : TimerRegs :=
  { r with psc := some (BitVec.ofNat 16 p), pscUns := false }

/-- The prescaler write was answered `FAIL`. -/
def TimerRegs.failPsc (r : TimerRegs) : TimerRegs := { r with pscUns := true }

/-- The period write of `T` was answered `OK`. -/
def TimerRegs.ackArr (T : Nat) (r : TimerRegs) : TimerRegs :=
  { r with arr := BitVec.ofNat 16 T, arrUns := false }

/-- The period write was answered `FAIL`. -/
def TimerRegs.failArr (r : TimerRegs) : TimerRegs := { r with arrUns := true }

/-- The pulse-width write of `v` was answered `OK`. -/
def ChannelRegs.ackPw (v : Nat) (r : ChannelRegs) : ChannelRegs :=
  { r with pw := some (BitVec.ofNat 16 v), pwUns := false }

/-- The pulse-width write was answered `FAIL`. -/
def ChannelRegs.failPw (r : ChannelRegs) : ChannelRegs := { r with pwUns := true }

/-- `zext_48(arr_uns ++ psc_uns ++ pw_uns)`: bit 2, bit 1, bit 0 (R180). -/
def syncFlags (t : TimerRegs) (c : ChannelRegs) : Operand :=
  (BitVec.ofBool t.arrUns ++ BitVec.ofBool t.pscUns ++ BitVec.ofBool c.pwUns).setWidth 48

end Sys2Proof.Machine
end

