-- ==== Sys2Proof/Machine/Ops.lean ====
section
/-! DEFINITION. The named operations the commands are made of: registers of a timer and of a channel, the device register
space (20_memory.md), the bus write (00_scope.md R14), the response (30_encoding.md R75), the shadowed register writes (10_state.md
R24, R25), the conflict check and timer programming (40_timer.md R103, R104), and the whole-block reset
(70_reset_and_hazards.md R230). PFR takes no exception (60_exceptions.md R208); `raise` is its error response (R14). -/

namespace Sys2Proof.Machine

/-! ## Timer and channel registers -/

/-- The registers of timer `t`. -/
def State.timer (s : State) (t : TimerIndex) : TimerRegs := s.timers[t]

/-- The registers of channel `c`. -/
def State.channel (s : State) (c : Channel) : ChannelRegs := s.channels[c]

/-- Change the registers of timer `t`. -/
def State.modTimer (s : State) (t : TimerIndex) (f : TimerRegs → TimerRegs) : State :=
  { s with timers := s.timers.set t (f (s.timer t)) }

/-- Change the registers of channel `c`. -/
def State.modChannel (s : State) (c : Channel) (f : ChannelRegs → ChannelRegs) : State :=
  { s with channels := s.channels.set c (f (s.channel c)) }

/-- `req[c] <- x` (R26). -/
def State.setReq (s : State) (c : Channel) (x : Claim) : State := s.modChannel c ({ · with req := x })

/-- `pct[c] <- x` (R28). -/
def State.setPct (s : State) (c : Channel) (x : Option Operand) : State := s.modChannel c ({ · with pct := x })

/-- `angle[c] <- a` (R29). -/
def State.setAngle (s : State) (c : Channel) (a : Int) : State := s.modChannel c ({ · with angle := some a })

/-! ## The device register space -/

/-- `PW_REG(c)` (R51). -/
def pwReg (c : Channel) : RegAddr := BitVec.ofNat 8 (Config.pwRegBase + c.val)

/-- `PSC_REG(t)` (R51). -/
def pscReg (t : TimerIndex) : RegAddr :=
  if t.val < 4 then BitVec.ofNat 8 (Config.pscRegBase + t.val) else BitVec.ofNat 8 (Config.psc2RegBase + (t.val - 4))

/-- `ARR_REG(t)` (R51). -/
def arrReg (t : TimerIndex) : RegAddr :=
  if t.val < 4 then BitVec.ofNat 8 (Config.arrRegBase + t.val) else BitVec.ofNat 8 (Config.arr2RegBase + (t.val - 4))

/-- What is known of the register at an address; `none`: it may hold any 16-bit value (R56). -/
def Memory.read : Memory → Nat → Option RegValue
  | [], _ => none
  | (b, v) :: m, a => if a = b then some v else Memory.read m a

/-- The register at `a` holds `v`. -/
def Memory.write : Memory → Nat → RegValue → Memory
  | [], a, v => [(a, v)]
  | (b, u) :: m, a, v =>
    if a < b then (a, v) :: (b, u) :: m
    else if a = b then (a, v) :: m
    else (b, u) :: Memory.write m a v

/-- The contents of the register at `a` are unknown. -/
def Memory.forget (m : Memory) (a : Nat) : Memory := m.filter (fun cell => cell.1 != a)

/-- The 3-byte transaction of a register write: address, high byte, low byte (R53). -/
def BusRequest.wireBytes (q : BusRequest) : List Byte :=
  [q.reg, q.value.extractLsb' 8 8, q.value.extractLsb' 0 8]

/-- The device takes a transaction (R53): the register its first byte names holds the 16-bit value of the other two, high byte
first. -/
def Memory.receive (m : Memory) : List Byte → Memory
  | [reg, hi, lo] => m.write reg.toNat (hi ++ lo)
  | _ => m

/-! ## Reset -/

/-- The whole-block reset (R230 to R234): PFR's registers and sequencer take their reset values; `CONFLICT_CHECK` and the device
keep theirs (R234, R235); a write that was outstanding is abandoned without an answer (R233). -/
def State.blockReset (s : State) : State :=
  { s with
    timers := Vector.replicate 7 .reset
    channels := Vector.replicate 20 .reset
    phase := .idle
    outstanding := none
    busLog := s.busLog ++ (s.outstanding.map fun q => ⟨q, none⟩).toList }

/-- A reset of the device alone: PFR does not see it, and every device register is unknown again (R235, R56). -/
def State.deviceReset (s : State) : State := { s with device := [] }

/-! ## The bus write -/

/-- PFR places a request on `bus_req`. From here until an `OK` the register's contents are unknown (R56). -/
def State.issue (s : State) (q : BusRequest) : State :=
  { s with outstanding := some q, device := s.device.forget q.reg.toNat }

/-- The Bus answers the outstanding request, and `es` is what is still to come. On `OK` the device has taken the write as a whole
(R54); on `FAIL` its register stays unknown (R56). -/
def State.answered (s : State) (q : BusRequest) (a : BusAnswer) (es : List BusEvent) : State :=
  { s with
    outstanding := none
    busEvents := es
    busLog := s.busLog ++ [⟨q, some a⟩]
    device := match a with
      | .ok => s.device.receive q.wireBytes
      | .fail => s.device }

/-- The bit on `bus_ack` for an answer: `OK` is 1, `FAIL` is 0 (R9). -/
def BusAnswer.ack : BusAnswer → BitVec 1
  | .ok => 1
  | .fail => 0

/-- The answer a bit on `bus_ack` gives (R9). -/
def BusAnswer.ofAck (b : BitVec 1) : BusAnswer := if b = 1 then .ok else .fail

/-- The Bus answers the outstanding write with the bit `b` on `bus_ack` (R9, R52). -/
def BusEvent.acknowledged (b : BitVec 1) : BusEvent :=
  match BusAnswer.ofAck b with
  | .ok => .ok
  | .fail => .fail

/-- How a bus write ends. -/
inductive WriteResult where
  /-- With the Bus's answer: the command goes on. -/
  | answer (a : BusAnswer) (s : State)
  /-- The command does not go on: the Bus never answers and PFR stays BUSY (R209), or a reset abandoned it (R233). -/
  | noAnswer (s : State)

/-- PFR waits for what happens to its outstanding request `q`. -/
def awaitAnswer (q : BusRequest) : State → List BusEvent → WriteResult
  | s, [] => .noAnswer { s with busEvents := [] }
  | s, .ok :: es => .answer .ok (s.answered q .ok es)
  | s, .fail :: es => .answer .fail (s.answered q .fail es)
  | s, .reset :: es => .noAnswer { s with busEvents := es }.blockReset
  | s, .okThenReset :: es => .noAnswer (s.answered q .ok es).blockReset
  | s, .deviceReset :: es => awaitAnswer q s.deviceReset es

/-- `BusWrite(reg, v)` (R14, R52): one request, one answer, no retry (R207) and no elision (R58). -/
def busWrite (reg : RegAddr) (v : RegValue) (s : State) : WriteResult :=
  awaitAnswer ⟨reg, v⟩ (s.issue ⟨reg, v⟩) s.busEvents

/-! ## Responses -/

/-- The status codes (R200). -/
inductive Status where
  | ok | rangeError | conflictError | busError | illegal | unset
  deriving DecidableEq, Repr

/-- The code of a status (R200). -/
def Status.code : Status → BitVec 4
  | .ok => 0
  | .rangeError => 1
  | .conflictError => 2
  | .busError => 3
  | .illegal => 4
  | .unset => 5

/-- The response word of format R (R75). -/
def responseWord (st : Status) (writes : Nat) (result : Operand) : ResponseWord :=
  st.code ++ (0 : BitVec 4) ++ BitVec.ofNat 8 writes ++ result

/-- PFR accepts a command: BUSY until the response (R31). -/
def State.accept (s : State) : State := { s with phase := .busy }

/-- A response is delivered on `rsp`, and PFR is IDLE (R9, R31). -/
def State.deliver (s : State) (r : ResponseWord) : State :=
  { s with phase := .idle, responses := s.responses ++ [r] }

/-- `respond(status, writes, result)` ends the command (R14). -/
def respond (st : Status) (writes : Nat) (result : Operand) (s : State) : Result :=
  .next (s.deliver (responseWord st writes result))

/-- `raise E`: `respond(E, w, 0)` with `w` the writes acknowledged so far (R14). -/
def raise (st : Status) (w : Nat) (s : State) : Result := respond st w 0 s

/-- `zext_48` of a 16-bit count (R12, R76). -/
def zext48 (n : Nat) : Operand := (BitVec.ofNat 16 n).setWidth 48

/-- The result field `[31:16] = p`, `[15:0] = T` (R76). -/
def pairResult (p T : Nat) : Operand := (BitVec.ofNat 16 p ++ BitVec.ofNat 16 T).setWidth 48

/-! ## Shadowed register writes -/

/-- A write to a device register PFR shadows, in a command that has had `w` writes acknowledged: on `OK` the shadow is updated
by `ack` and the command goes on with `k`; on `FAIL` `fail` marks it unsynced and BUS_ERROR ends the command (R24, R25,
R206). -/
def shadowedWrite (reg : RegAddr) (v w : Nat) (ack fail : State → State) (s : State) (k : State → Result) : Result :=
  match busWrite reg (BitVec.ofNat 16 v) s with
  | .answer .ok t => k (ack t)
  | .answer .fail t => raise .busError w (fail t)
  | .noAnswer t => .next t

/-- Write divider `p` to the prescaler register of `t`; the register holds `p - 1` (R51, R104). -/
def writePsc (t : TimerIndex) (p w : Nat) (s : State) (k : State → Result) : Result :=
  shadowedWrite (pscReg t) (p - 1) w (·.modTimer t (·.ackPsc p)) (·.modTimer t (·.failPsc)) s k

/-- Write period `T` to the period register of `t` (R51, R104). -/
def writeArr (t : TimerIndex) (T w : Nat) (s : State) (k : State → Result) : Result :=
  shadowedWrite (arrReg t) T w (·.modTimer t (·.ackArr T)) (·.modTimer t (·.failArr)) s k

/-- Write count `v` to the pulse-width register of `c` (R51, R140). -/
def writePw (c : Channel) (v w : Nat) (s : State) (k : State → Result) : Result :=
  shadowedWrite (pwReg c) v w (·.modChannel c (·.ackPw v)) (·.modChannel c (·.failPw)) s k

/-! ## Timer programming -/

/-- `conflict(c, new)` (R103). -/
def conflict (s : State) (c : Channel) (new : Claim) : Bool :=
  s.conflictCheck &&
    decide (∃ c' : Channel, Sibling c c' ∧ (s.channel c').req ≠ .unclaimed ∧ (s.channel c').req ≠ new)

/-- `program_timer(c, p, T, new)` (R104), then the rest `k` of the command. -/
def programTimer (c : Channel) (p T : Nat) (new : Claim) (s : State) (k : State → Result) : Result :=
  writePsc (timerOf c) p 0 (s.setReq c .unclaimed) fun s =>
    writeArr (timerOf c) T 1 s fun s => k (s.setReq c new)

end Sys2Proof.Machine
end

