-- ==== Sys2Proof/Machine/PulseWidth.lean ====
section
/-! DEFINITION. The pulse-width family (41_pulse_width.md): SET_PW, GET_PW, SET_PW_PCT, GET_PW_PCT. None of them checks for a
conflict. -/

namespace Sys2Proof.Machine

/-- SET_PW (R140): the operand clamped to 0..REG_MAX. -/
def execSetPw (c : Channel) (opd : Operand) (s : State) : Result :=
  let w := (clamp (sintOperand opd) 0 Config.regMax).toNat
  writePw c w 0 s fun s => respond .ok 1 (zext48 w) (s.setPct c none)

/-- GET_PW (R141). -/
def execGetPw (c : Channel) (s : State) : Result :=
  match (s.channel c).pw with
  | none => raise .unset 0 s
  | some pw => respond .ok 0 (pw.setWidth 48) s

/-- SET_PW_PCT (R142). -/
def execSetPwPct (c : Channel) (opd : Operand) (s : State) : Result :=
  let P := pctOperand opd
  if P > 100 * Config.pctScale then raise .rangeError 0 s
  else
    let v := pctCount P (s.timer (timerOf c)).arr
    writePw c v 0 s fun s => respond .ok 1 (zext48 v) (s.setPct c (some opd))

/-- GET_PW_PCT (R143). -/
def execGetPwPct (c : Channel) (s : State) : Result :=
  match (s.channel c).pct with
  | none => raise .unset 0 s
  | some P => respond .ok 0 P s

end Sys2Proof.Machine
end

