-- ==== Sys2Proof/Machine/Servo.lean ====
section
/-! DEFINITION. The servo family (42_servo.md): SERVO_INIT, SERVO_ANGLE, GET_ANGLE. -/

namespace Sys2Proof.Machine

/-- SERVO_INIT (R162). -/
def execServoInit (c : Channel) (s : State) : Result :=
  if conflict s c .servo then raise .conflictError 0 s
  else programTimer c Config.servoPrescaler Config.servoPeriod .servo s fun s =>
    respond .ok 2 (pairResult Config.servoPrescaler Config.servoPeriod) (s.setPct c none)

/-- SERVO_ANGLE (R163). -/
def execServoAngle (c : Channel) (opd : Operand) (s : State) : Result :=
  let a := clampAngle (angleOperand opd)
  let n := servoCount (angleOperand opd)
  writePw c n 0 s fun s => respond .ok 1 (zext48 n) ((s.setAngle c a).setPct c none)

/-- GET_ANGLE (R164): the 48-bit two's-complement image. -/
def execGetAngle (c : Channel) (s : State) : Result :=
  match (s.channel c).angle with
  | none => raise .unset 0 s
  | some a => respond .ok 0 (BitVec.ofInt 48 a) s

end Sys2Proof.Machine
end

