-- ==== Sys2Proof/Machine/Status.lean ====
section
/-! DEFINITION. The status family (43_status.md): GET_SYNC. -/

namespace Sys2Proof.Machine

/-- GET_SYNC (R180). -/
def execGetSync (c : Channel) (s : State) : Result :=
  respond .ok 0 (syncFlags (s.timer (timerOf c)) (s.channel c)) s

end Sys2Proof.Machine
end

