-- ==== Sys2Proof/Machine/Resolver.lean ====
section
/-! DEFINITION. The frequency resolver (40_timer.md R102), in exact integers. -/

namespace Sys2Proof.Machine

/-- A prescaler divider and a period. -/
structure Candidate where
  p : Nat
  T : Nat
  deriving DecidableEq, Repr

/-- The first divider of the search window: `p0 = max(1, isqrt(floor(K / F)) - SEARCH_BACKOFF)` (R102). -/
def firstDivider (F : Nat) : Nat := max 1 (isqrt (Config.freqK / F) - Config.searchBackoff)

/-- The candidate of divider `p`: `T = floor(K / (F * p))` (R102). -/
def candidate (F p : Nat) : Candidate := ⟨p, Config.freqK / (F * p)⟩

/-- The candidate can be programmed (R102, D7). -/
def Candidate.programmable (c : Candidate) : Bool :=
  decide (1 ≤ c.T) && decide (c.T ≤ Config.regMax) && decide (c.p ≤ Config.regMax)

/-- The search window: the ten dividers from `p0` up, less the candidates that cannot be programmed (R102). -/
def window (F : Nat) : List Candidate :=
  ((List.range Config.searchWidth).map fun i => candidate F (firstDivider F + i)).filter Candidate.programmable

/-- `abs(K - F*p*T)`: the candidate's error times `2^16 * p * T` (R102). -/
def Candidate.scaledError (F : Nat) (c : Candidate) : Nat := ((Config.freqK : Int) - F * c.p * c.T).natAbs

/-- The error of `a` is smaller than that of `b`, compared in integers as R102 allows. -/
def Candidate.better (F : Nat) (a b : Candidate) : Bool :=
  decide (a.scaledError F * (b.p * b.T) < b.scaledError F * (a.p * a.T))

/-- One turn of the resolver's loop: a strictly better candidate replaces the best one, so a tie keeps the smaller divider
(R102). -/
def keepBest (F : Nat) (best : Option Candidate) (c : Candidate) : Option Candidate :=
  match best with
  | none => some c
  | some b => if c.better F b then some c else some b

/-- `resolve(F)` (R102). -/
def resolve (F : Nat) : Option Candidate := (window F).foldl (keepBest F) none

end Sys2Proof.Machine
end

