-- ==== Sys2Proof/Machine/Timer.lean ====
section
/-! DEFINITION. The timer family (40_timer.md): SET_FREQ, GET_FREQ, SET_PERIOD, GET_PERIOD, SET_PRESCALER, GET_PRESCALER. -/

namespace Sys2Proof.Machine

/-- `if pct[c] != NONE then rederive_pw(c)` (R107, R110), the third write of SET_FREQ: the standing percentage of the period
just written. `k` takes the number of writes acknowledged. -/
def rederivePw (c : Channel) (s : State) (k : Nat → State → Result) : Result :=
  match (s.channel c).pct with
  | none => k 2 s
  | some P => writePw c (pctCount P.toNat (s.timer (timerOf c)).arr) 2 s (k 3)

/-- SET_FREQ (R107), its checks in the order of R108. -/
def execSetFreq (c : Channel) (opd : Operand) (s : State) : Result :=
  if freqOperand opd = 0 then raise .rangeError 0 s
  else match resolve (freqOperand opd) with
    | none => raise .rangeError 0 s
    | some r =>
      if conflict s c (.freq opd) then raise .conflictError 0 s
      else programTimer c r.p r.T (.freq opd) s fun s =>
        rederivePw c s fun writes s => respond .ok writes (pairResult r.p r.T) s

/-- GET_FREQ (R111). -/
def execGetFreq (c : Channel) (s : State) : Result :=
  match (s.timer (timerOf c)).psc with
  | none => raise .unset 0 s
  | some psc => respond .ok 0 (BitVec.ofNat 48 (achievedUq psc (s.timer (timerOf c)).arr)) s

/-- SET_PERIOD (R112). -/
def execSetPeriod (c : Channel) (opd : Operand) (s : State) : Result :=
  let n := uintOperand opd
  if n < 1 ∨ n > Config.regMax then raise .rangeError 0 s
  else if conflict s c .unclaimed then raise .conflictError 0 s
  else writeArr (timerOf c) n 0 (s.setReq c .unclaimed) fun s => respond .ok 1 (zext48 n) s

/-- GET_PERIOD (R113). -/
def execGetPeriod (c : Channel) (s : State) : Result :=
  respond .ok 0 ((s.timer (timerOf c)).arr.setWidth 48) s

/-- SET_PRESCALER (R114). -/
def execSetPrescaler (c : Channel) (opd : Operand) (s : State) : Result :=
  let n := uintOperand opd
  if n < 1 ∨ n > Config.regMax then raise .rangeError 0 s
  else if conflict s c .unclaimed then raise .conflictError 0 s
  else writePsc (timerOf c) n 0 (s.setReq c .unclaimed) fun s => respond .ok 1 (zext48 n) s

/-- GET_PRESCALER (R115). -/
def execGetPrescaler (c : Channel) (s : State) : Result :=
  match (s.timer (timerOf c)).psc with
  | none => raise .unset 0 s
  | some psc => respond .ok 0 (psc.setWidth 48) s

end Sys2Proof.Machine
end

