-- ==== Sys2Proof/Machine/Dispatch.lean ====
section
/-! DEFINITION. The dispatch of R71 and R73: one arm per command, each one call of its meaning. -/

namespace Sys2Proof.Machine

def exec (i : Instr) (s : State) : Host.Outcome State Fault Refusal :=
  match i with
  | .setFreq c opd => Sys2Proof.Machine.execSetFreq c opd s
  | .getFreq c => Sys2Proof.Machine.execGetFreq c s
  | .setPeriod c opd => Sys2Proof.Machine.execSetPeriod c opd s
  | .getPeriod c => Sys2Proof.Machine.execGetPeriod c s
  | .setPrescaler c opd => Sys2Proof.Machine.execSetPrescaler c opd s
  | .getPrescaler c => Sys2Proof.Machine.execGetPrescaler c s
  | .setPw c opd => Sys2Proof.Machine.execSetPw c opd s
  | .getPw c => Sys2Proof.Machine.execGetPw c s
  | .setPwPct c opd => Sys2Proof.Machine.execSetPwPct c opd s
  | .getPwPct c => Sys2Proof.Machine.execGetPwPct c s
  | .servoInit c => Sys2Proof.Machine.execServoInit c s
  | .servoAngle c opd => Sys2Proof.Machine.execServoAngle c opd s
  | .getAngle c => Sys2Proof.Machine.execGetAngle c s
  | .getSync c => Sys2Proof.Machine.execGetSync c s

end Sys2Proof.Machine
end

