-- ==== Sys2Proof/Machine/Accept.lean ====
section
/-! DEFINITION. What happens around a command: its acceptance and decoding (00_scope.md R10, 30_encoding.md R71), and the events
that reach an IDLE PFR (70_reset_and_hazards.md R230, R233, R235). -/

namespace Sys2Proof.Machine

/-- PFR accepts the word `w`, decodes it before any other check, and carries the command out; a word that does not decode is
answered ILLEGAL with no effect (R31, R71). -/
def runCommand (w : CommandWord) (s : State) : Result :=
  match decode w with
  | .ok i => exec i s.accept
  | .error _ => raise .illegal 0 s.accept

/-- The whole-block reset comes before the response of the command that led to `t` is delivered: the command is abandoned, and
`delivered` are the responses that were delivered before it (R233). -/
def State.abandon (t : State) (delivered : List ResponseWord) : State :=
  { t with responses := delivered }.blockReset

/-- An IDLE PFR takes the next event, `rest` being those after it. -/
def takeEvent (e : HostEvent) (rest : List HostEvent) (s : State) : Result :=
  match e with
  | .command w => runCommand w { s with inbox := rest }
  | .commandThenReset w =>
    match runCommand w { s with inbox := rest } with
    | .next t => .next (t.abandon s.responses)
    | .fault r => .fault r
    | .refused r => .refused r
  | .reset => .next { s with inbox := rest }.blockReset
  | .deviceReset => .next { s with inbox := rest }.deviceReset

/-- The state in which an IDLE PFR finds the word `w` offered, before everything else the host will send. -/
def State.offer (s : State) (w : CommandWord) : State :=
  { s with inbox := .command w :: s.inbox, phase := .idle, outstanding := none }

end Sys2Proof.Machine
end

