-- ==== Sys2Proof/Machine/Step.lean ====
section
/-! DEFINITION. One step: one event at the ports, a command from its acceptance to its response (00_scope.md R10). -/

namespace Sys2Proof.Machine

/-- A step. An IDLE PFR takes the next event, and waits where there is none (R234). A PFR that is still BUSY waits for a Bus that
never answers, and has no step (R209). -/
def step (s : State) : Host.Outcome State Fault Refusal :=
  match s.phase with
  | .busy => .fault .busNeverAnswers
  | .idle =>
    match s.inbox with
    | [] => .next s
    | e :: rest => takeEvent e rest s

/-- `s` with the command word whose low `nbits` bits are `w` offered next on the command port. PFR fetches nothing from memory
(R64): the host's offer is where a command comes from (R11). -/
def State.withFetchWord (s : State) (nbits w : Nat) : State := s.offer (BitVec.ofNat 64 (w % 2 ^ nbits))

end Sys2Proof.Machine
end

