-- ==== Sys2Proof/Machine/Assembler.lean ====
section
/-! DEFINITION. The assembler syntax (30_encoding.md R79) and the pseudo-instructions (R80). A line is a list of characters. -/

namespace Sys2Proof.Machine

/-- The pseudo-instructions of R80. -/
inductive Pseudo where
  /-- `FREQ_HZ ch, n` -/
  | freqHz (c : Channel) (n : Int)
  /-- `DUTY ch, n` -/
  | duty (c : Channel) (n : Int)
  /-- `ANGLE_DEG ch, d` -/
  | angleDeg (c : Channel) (d : Int)
  deriving DecidableEq, Repr

/-- The one command a pseudo-instruction stands for, where its condition holds (R80). -/
def Pseudo.expand : Pseudo → Option Instr
  | .freqHz c n => if 0 ≤ n ∧ n < 2 ^ 32 then some (.setFreq c (BitVec.ofInt 48 (n * 65536))) else none
  | .duty c n => if 0 ≤ n ∧ n < 2 ^ 32 then some (.setPwPct c (BitVec.ofInt 48 (n * 65536))) else none
  | .angleDeg c d => if -2 ^ 39 ≤ d ∧ d < 2 ^ 39 then some (.servoAngle c (BitVec.ofInt 48 (d * 256))) else none

/-- The mnemonics of R73. -/
def mnemonicOf : Opcode → List Char
  | .setFreq => ['S', 'E', 'T', '_', 'F', 'R', 'E', 'Q']
  | .getFreq => ['G', 'E', 'T', '_', 'F', 'R', 'E', 'Q']
  | .setPeriod => ['S', 'E', 'T', '_', 'P', 'E', 'R', 'I', 'O', 'D']
  | .getPeriod => ['G', 'E', 'T', '_', 'P', 'E', 'R', 'I', 'O', 'D']
  | .setPrescaler => ['S', 'E', 'T', '_', 'P', 'R', 'E', 'S', 'C', 'A', 'L', 'E', 'R']
  | .getPrescaler => ['G', 'E', 'T', '_', 'P', 'R', 'E', 'S', 'C', 'A', 'L', 'E', 'R']
  | .setPw => ['S', 'E', 'T', '_', 'P', 'W']
  | .getPw => ['G', 'E', 'T', '_', 'P', 'W']
  | .setPwPct => ['S', 'E', 'T', '_', 'P', 'W', '_', 'P', 'C', 'T']
  | .getPwPct => ['G', 'E', 'T', '_', 'P', 'W', '_', 'P', 'C', 'T']
  | .servoInit => ['S', 'E', 'R', 'V', 'O', '_', 'I', 'N', 'I', 'T']
  | .servoAngle => ['S', 'E', 'R', 'V', 'O', '_', 'A', 'N', 'G', 'L', 'E']
  | .getAngle => ['G', 'E', 'T', '_', 'A', 'N', 'G', 'L', 'E']
  | .getSync => ['G', 'E', 'T', '_', 'S', 'Y', 'N', 'C']

/-- The fourteen opcodes. -/
def allOpcodes : List Opcode :=
  [.setFreq, .getFreq, .setPeriod, .getPeriod, .setPrescaler, .getPrescaler, .setPw, .getPw, .setPwPct, .getPwPct,
    .servoInit, .servoAngle, .getAngle, .getSync]

/-- The opcode a mnemonic names. -/
def opcodeNamed (cs : List Char) : Option Opcode := allOpcodes.find? (fun o => mnemonicOf o == cs)

/-- The pseudo-instruction a mnemonic names. -/
def pseudoNamed (cs : List Char) : Option (Channel → Int → Pseudo) :=
  if cs == ['F', 'R', 'E', 'Q', '_', 'H', 'Z'] then some .freqHz
  else if cs == ['D', 'U', 'T', 'Y'] then some .duty
  else if cs == ['A', 'N', 'G', 'L', 'E', '_', 'D', 'E', 'G'] then some .angleDeg
  else none

/-- The value of a digit, hexadecimal digits in either case. -/
def digitValue (c : Char) : Option Nat :=
  let n := c.toNat
  if 48 ≤ n ∧ n ≤ 57 then some (n - 48)
  else if 65 ≤ n ∧ n ≤ 70 then some (n - 55)
  else if 97 ≤ n ∧ n ≤ 102 then some (n - 87)
  else none

/-- The rest of a number's digits, `acc` being the value so far. -/
def digitsFrom (base : Nat) : List Char → Nat → Option Nat
  | [], acc => some acc
  | c :: cs, acc =>
    match digitValue c with
    | none => none
    | some d => if d < base then digitsFrom base cs (acc * base + d) else none

/-- A number of one or more digits in a base. -/
def number (base : Nat) (cs : List Char) : Option Nat :=
  match cs with
  | [] => none
  | _ :: _ => digitsFrom base cs 0

/-- `operand := ["-"] decimal integer | "0x" hex integer` (R79). -/
def literal (cs : List Char) : Option Int :=
  match cs with
  | '-' :: ds => (number 10 ds).map fun n => -(n : Int)
  | '0' :: 'x' :: ds => (number 16 ds).map fun n => (n : Int)
  | _ => (number 10 cs).map fun n => (n : Int)

/-- `channel := decimal integer 0..19` (R79). -/
def channelLiteral (cs : List Char) : Option Channel :=
  match number 10 cs with
  | none => none
  | some n => if h : n < 20 then some ⟨n, h⟩ else none

/-- The operand field of a literal in a format (R79): the raw value of the field, where the 48 bits hold it; a negative literal,
in the two signed formats only, is its two's-complement image. -/
def operandField (f : OperandFormat) (n : Int) : Option Operand :=
  match f with
  | .zero => none
  | .freq | .uint | .pct => if 0 ≤ n ∧ n < 2 ^ 48 then some (BitVec.ofInt 48 n) else none
  | .sint | .angle => if -2 ^ 47 ≤ n ∧ n < 2 ^ 48 then some (BitVec.ofInt 48 n) else none

/-- White space, which separates the parts of a line. -/
def isBlank (c : Char) : Bool := c == ' ' || c == '\t'

/-- The words of a text, `word` being the one read so far, last character first. -/
def wordsFrom : List Char → List Char → List (List Char)
  | [], word => if word.isEmpty then [] else [word.reverse]
  | c :: cs, word =>
    if isBlank c then (if word.isEmpty then wordsFrom cs [] else word.reverse :: wordsFrom cs [])
    else wordsFrom cs (c :: word)

/-- The words of a text. -/
def words (cs : List Char) : List (List Char) := wordsFrom cs []

/-- The line without its comment (R79). -/
def withoutComment (cs : List Char) : List Char := cs.takeWhile (· != ';')

/-- The text before the first comma, and the text after it if there is one. -/
def atComma (cs : List Char) : List Char × Option (List Char) :=
  match cs.dropWhile (· != ',') with
  | [] => (cs, none)
  | _ :: rest => (cs.takeWhile (· != ','), some rest)

/-- A command of the opcode map from its parts (R79): a format ZERO command takes no operand, every other one takes one. -/
def assembleCommand (o : Opcode) (c : Channel) (operand : Option Int) : Option Instr :=
  match operand with
  | none => if o.format = .zero then some (o.instr c 0) else none
  | some n => (operandField o.format n).map (o.instr c)

/-- A command or a pseudo-instruction from its parts (R79, R80). DESIGN CHOICE (log 10): the integer of a pseudo-instruction may be
written in every way a literal may, also as `0x` and hexadecimal digits, where R80 says only "integer". Unsafe. -/
def assembleParts (mnemonic : List Char) (c : Channel) (operand : Option Int) : Option Instr :=
  match opcodeNamed mnemonic with
  | some o => assembleCommand o c operand
  | none =>
    match pseudoNamed mnemonic, operand with
    | some p, some n => (p c n).expand
    | _, _ => none

/-- The operand text of a line, read: `none` where it is not a literal. -/
def operandText (cs : Option (List Char)) : Option (Option Int) :=
  match cs with
  | none => some none
  | some cs =>
    match words cs with
    | [w] => (literal w).map some
    | _ => none

/-- One line of assembly: `mnemonic channel [ "," operand ] [ ";" comment ]` (R79). -/
def assembleLine (line : List Char) : Option Instr :=
  match words (atComma (withoutComment line)).1 with
  | [mnemonic, channel] =>
    match channelLiteral channel, operandText (atComma (withoutComment line)).2 with
    | some c, some operand => assembleParts mnemonic c operand
    | _, _ => none
  | _ => none

/-- The command word of a line of assembly (R79, R81). -/
def assemble (line : List Char) : Option CommandWord := (assembleLine line).map encode

end Sys2Proof.Machine
end

