-- ==== Sys2Proof/Machine/Waveform.lean ====
section
/-! DEFINITION. What the device produces from its registers (20_memory.md R57): the relation a waveform-level model must use. No
step reads it. It is a function of the register contents, which are known only as far as R56 allows; when a written register
takes effect is open (R246). -/

namespace Sys2Proof.Machine

/-- The divider the contents of `PSC(t)` select, where known: the register holds p - 1 (R57). -/
def deviceDivider (d : Memory) (t : TimerIndex) : Option Nat :=
  match d.read (pscReg t).toNat with
  | none => none
  | some v => some (v.toNat + 1)

/-- The period in `ARR(t)`, where known and not 0 (R57). -/
def devicePeriod (d : Memory) (t : TimerIndex) : Option Nat :=
  match d.read (arrReg t).toNat with
  | none => none
  | some v => if v = 0 then none else some v.toNat

/-- Timer t's output frequency in Hz: `CLOCK_HZ / (p * T)` (R57). -/
def outputHz (d : Memory) (t : TimerIndex) : Option Rat :=
  match deviceDivider d t, devicePeriod d t with
  | some p, some T => some ((Config.clockHz : Rat) / (p * T))
  | _, _ => none

/-- The fraction of each period for which channel c's output is high: `min(PW(c), T) / T` (R57). -/
def dutyFraction (d : Memory) (c : Channel) : Option Rat :=
  match d.read (pwReg c).toNat, devicePeriod d (timerOf c) with
  | some w, some T => some ((min w.toNat T : Nat) / (T : Rat))
  | _, _ => none

/-- The length in seconds of channel c's pulse, `count * psc / CLOCK_HZ` (R245), where the count is below the period. -/
def pulseSeconds (d : Memory) (c : Channel) : Option Rat :=
  match d.read (pwReg c).toNat, deviceDivider d (timerOf c), devicePeriod d (timerOf c) with
  | some w, some p, some T => some ((min w.toNat T * p : Nat) / (Config.clockHz : Rat))
  | _, _, _ => none

end Sys2Proof.Machine
end

