-- ==== Sys2Proof/Safety.lean ====
section
/-! DEFINITION. The terms claims about runs are stated in: legal register values (10_state.md R21), what the device registers may
hold (20_memory.md R56), agreement of shadows and device (43_status.md R181), claims that describe their timer (40_timer.md
R105), the fields of a response (30_encoding.md R75), and what a command that has ended leaves at the ports. -/

namespace Sys2Proof.Machine

/-! ## Legal values -/

/-- The legal values of a timer's shadows (R21): 1..65535 each. -/
abbrev TimerRegs.Legal (r : TimerRegs) : Prop := (∀ p ∈ r.psc, p ≠ 0) ∧ r.arr ≠ 0

/-- The legal values of a channel's registers (R21). -/
abbrev ChannelRegs.Legal (r : ChannelRegs) : Prop :=
  (∀ P ∈ r.pct, P.toNat ≤ 6553600) ∧ (∀ a ∈ r.angle, -23040 ≤ a ∧ a ≤ 23040) ∧ r.req ≠ .freq 0

/-- The addresses of the 34 device registers PFR writes (R51): `PW`, `PSC` and `ARR`. -/
def deviceRegisters : List RegAddr :=
  [0x20, 0x21, 0x22, 0x23, 0x24, 0x25, 0x26, 0x27, 0x28, 0x29, 0x2A, 0x2B, 0x2C, 0x2D, 0x2E, 0x2F, 0x30, 0x31, 0x32, 0x33] ++
  [0x40, 0x41, 0x42, 0x43, 0x50, 0x51, 0x52] ++ [0x44, 0x45, 0x46, 0x47, 0x54, 0x55, 0x56]

/-- A legal state: every register has a legal value (R21), the device contents are canonical and known only of registers PFR
writes (R51), every request so far was for one of those, and a write is outstanding exactly where PFR is BUSY. (Between steps: a
step is a whole command, R10, and leaves PFR BUSY only in a wait that has no end, log 3, DEDUCED.) -/
abbrev State.Legal (s : State) : Prop :=
  (∀ t, (s.timer t).Legal) ∧ (∀ c, (s.channel c).Legal) ∧
  s.device.wf ∧ (∀ cell ∈ s.device, BitVec.ofNat 8 cell.1 ∈ deviceRegisters) ∧
  (∀ r ∈ s.busLog, r.request.reg ∈ deviceRegisters) ∧ (∀ q ∈ s.outstanding, q.reg ∈ deviceRegisters) ∧
  (s.phase = .busy ↔ s.outstanding.isSome)

/-! ## Resets at the ports -/

/-- The whole-block reset will not be asserted during a command. -/
abbrev NoReset (es : List BusEvent) : Prop := BusEvent.reset ∉ es ∧ BusEvent.okThenReset ∉ es

/-- Nothing but answers will reach an outstanding write. -/
abbrev OnlyAnswers (es : List BusEvent) : Prop := NoReset es ∧ BusEvent.deviceReset ∉ es

/-- The device is never reset alone (R235). -/
abbrev State.NoDeviceReset (s : State) : Prop :=
  HostEvent.deviceReset ∉ s.inbox ∧ BusEvent.deviceReset ∉ s.busEvents

/-! ## Device, shadows and claims -/

/-- The contents a device may have, given what is known of it (R56): a known register holds its value, any other register any
value. -/
def Memory.Admits (m : Memory) (contents : RegAddr → RegValue) : Prop :=
  ∀ a v, m.read a.toNat = some v → contents a = v

/-- No write to the register is outstanding. -/
abbrev State.Settled (s : State) (reg : RegAddr) : Prop := ∀ q ∈ s.outstanding, q.reg ≠ reg

/-- The device holds the register image of the shadow of every settled register whose sync flag is 0 (R181); the image of
`psc[t] = p` is p - 1. -/
abbrev State.Synced (s : State) : Prop :=
  (∀ t, (s.timer t).pscUns = false → s.Settled (pscReg t) →
    (s.timer t).psc.isSome ∧ s.device.read (pscReg t).toNat = (s.timer t).psc.map (· - 1)) ∧
  (∀ t, (s.timer t).arrUns = false → s.Settled (arrReg t) →
    s.device.read (arrReg t).toNat = some (s.timer t).arr) ∧
  (∀ c, (s.channel c).pwUns = false → s.Settled (pwReg c) →
    (s.channel c).pw.isSome ∧ s.device.read (pwReg c).toNat = (s.channel c).pw)

/-- The divider and period a claim stands for (R26): those of its SET_FREQ or SERVO_INIT. -/
def claimedValues : Claim → Option Candidate
  | .unclaimed => none
  | .freq f => resolve f.toNat
  | .servo => some ⟨Config.servoPrescaler, Config.servoPeriod⟩

/-- Under `CONFLICT_CHECK`, a channel's claim describes the values its timer's shadows hold (R105). -/
abbrev State.ClaimsHold (s : State) : Prop :=
  s.conflictCheck = true → ∀ c, (s.channel c).req ≠ .unclaimed →
    ∃ r ∈ claimedValues (s.channel c).req,
      (s.timer (timerOf c)).psc = some (BitVec.ofNat 16 r.p) ∧ (s.timer (timerOf c)).arr = BitVec.ofNat 16 r.T

/-- The claim a command would leave on its channel, for the commands that reprogram a timer (R103). -/
def claimLeft : Instr → Option Claim
  | .setFreq _ opd => some (.freq opd)
  | .setPeriod _ _ => some .unclaimed
  | .setPrescaler _ _ => some .unclaimed
  | .servoInit _ => some .servo
  | .getFreq _ | .getPeriod _ | .getPrescaler _ | .setPw _ _ | .getPw _ | .setPwPct _ _ | .getPwPct _
  | .servoAngle _ _ | .getAngle _ | .getSync _ => none

/-- The state without its claims (R26). -/
def State.eraseClaims (s : State) : State :=
  { s with channels := s.channels.map fun r => { r with req := .unclaimed } }

/-! ## Responses -/

/-- `status` of a response, bits 63:60 (R75). -/
def responseStatus (r : ResponseWord) : BitVec 4 := r.extractLsb' 60 4

/-- `rsv` of a response, bits 59:56 (R75). -/
def responseReserved (r : ResponseWord) : BitVec 4 := r.extractLsb' 56 4

/-- `writes` of a response, bits 55:48 (R75). -/
def responseWrites (r : ResponseWord) : BitVec 8 := r.extractLsb' 48 8

/-- `result` of a response, bits 47:0 (R75). -/
def responseResult (r : ResponseWord) : Operand := r.extractLsb' 0 48

/-- The state a command leaves that issued no write and changed no register: the response is delivered and PFR is IDLE. -/
def State.answeredOnly (s : State) (st : Status) (result : Operand) : State :=
  s.deliver (responseWord st 0 result)

/-- What is known of the register at `a` after the bus events `log` (R56): the value of the last write to it, if that was answered
`OK`; nothing, if it was not; what was known before, if there was no write to it. -/
def readAfter (m : Memory) (log : List BusRecord) (a : Nat) : Option RegValue :=
  log.foldl (fun known r =>
    if r.request.reg.toNat = a then (if r.answer = some .ok then some r.request.value else none) else known) (m.read a)

/-- At the ports and in the device, `t` is `s` after a command that had the writes `log` and the response `r`, and left the bus
events `es`. -/
structure Ended (s t : State) (log : List BusRecord) (es : List BusEvent) (r : ResponseWord) : Prop where
  phase : t.phase = .idle
  outstanding : t.outstanding = none
  busLog : t.busLog = s.busLog ++ log
  busEvents : t.busEvents = es
  responses : t.responses = s.responses ++ [r]
  inbox : t.inbox = s.inbox
  conflictCheck : t.conflictCheck = s.conflictCheck
  device : ∀ a, t.device.read a = readAfter s.device log a

/-- Only timer `i` and channel `c` may differ between `s` and `t`. -/
abbrev SameExcept (s t : State) (i : TimerIndex) (c : Channel) : Prop :=
  (∀ i', i' ≠ i → t.timer i' = s.timer i') ∧ (∀ c', c' ≠ c → t.channel c' = s.channel c')

/-- A sibling's claim refuses a command on channel `c` that would leave the claim `new` (R103). -/
abbrev State.Blocked (s : State) (c : Channel) (new : Claim) : Prop :=
  s.conflictCheck = true ∧
    ∃ c' : Channel, Sibling c c' ∧ (s.channel c').req ≠ .unclaimed ∧ (s.channel c').req ≠ new

/-- The record of an answered write. -/
def wrote (reg : RegAddr) (v : Nat) (a : BusAnswer) : BusRecord := ⟨⟨reg, BitVec.ofNat 16 v⟩, some a⟩

/-- The request to write `v`. -/
def request (reg : RegAddr) (v : Nat) : BusRequest := ⟨reg, BitVec.ofNat 16 v⟩

/-- The writes a command issues in the state `s` as long as each is answered `OK` (R107, R112, R114, R140, R142, R162, R163), in
order: none where its rule rejects it, and none for a getter. -/
def plannedWrites (s : State) : Instr → List BusRequest
  | .setFreq c F =>
    if F = 0 ∨ s.Blocked c (.freq F) then []
    else match resolve F.toNat with
      | none => []
      | some r =>
        [request (pscReg (timerOf c)) (r.p - 1), request (arrReg (timerOf c)) r.T] ++
          match (s.channel c).pct with
          | none => []
          | some P => [request (pwReg c) (rne (P.toNat * r.T) (100 * 65536))]
  | .setPeriod c n =>
    if n = 0 ∨ 65535 < n.toNat ∨ s.Blocked c .unclaimed then [] else [request (arrReg (timerOf c)) n.toNat]
  | .setPrescaler c n =>
    if n = 0 ∨ 65535 < n.toNat ∨ s.Blocked c .unclaimed then [] else [request (pscReg (timerOf c)) (n.toNat - 1)]
  | .setPw c v => [request (pwReg c) (max 0 (min v.toInt 65535)).toNat]
  | .setPwPct c P =>
    if 6553600 < P.toNat then []
    else [request (pwReg c) (rne (P.toNat * (s.timer (timerOf c)).arr.toNat) (100 * 65536))]
  | .servoInit c =>
    if s.Blocked c .servo then [] else [request (pscReg (timerOf c)) 351, request (arrReg (timerOf c)) 4095]
  | .servoAngle c A => [request (pwReg c) (servoCount A.toInt)]
  | .getFreq _ | .getPeriod _ | .getPrescaler _ | .getPw _ | .getPwPct _ | .getAngle _ | .getSync _ => []

end Sys2Proof.Machine
end

