-- ==== Sys2Proof/Certificates/Slice0/Obligations.lean ====
section
/-! DEFINITION. The statements for the provers, from the numbered rules of the specification. -/

open Sys2Proof Sys2Proof.Machine

/-! ## Encoding -/

/-- R70: the four fields of a command word, by bit position. -/
def Obligations.CommandWordFields : Prop :=
  ∀ w : CommandWord,
    (splitWord w).op.toNat = w.toNat / 2 ^ 60 ∧ (splitWord w).ch.toNat = w.toNat / 2 ^ 55 % 2 ^ 5 ∧
    (splitWord w).rsv.toNat = w.toNat / 2 ^ 48 % 2 ^ 7 ∧ (splitWord w).opd.toNat = w.toNat % 2 ^ 48

/-- R73: the fields each command is encoded in. -/
def Obligations.OpcodeMap : Prop :=
  ∀ (c : Channel) (opd : Operand),
    splitWord (encode (.setFreq c opd)) = ⟨0x1, BitVec.ofNat 5 c.val, 0, opd⟩ ∧
    splitWord (encode (.getFreq c)) = ⟨0x2, BitVec.ofNat 5 c.val, 0, 0⟩ ∧
    splitWord (encode (.setPeriod c opd)) = ⟨0x3, BitVec.ofNat 5 c.val, 0, opd⟩ ∧
    splitWord (encode (.getPeriod c)) = ⟨0x4, BitVec.ofNat 5 c.val, 0, 0⟩ ∧
    splitWord (encode (.setPrescaler c opd)) = ⟨0x5, BitVec.ofNat 5 c.val, 0, opd⟩ ∧
    splitWord (encode (.getPrescaler c)) = ⟨0x6, BitVec.ofNat 5 c.val, 0, 0⟩ ∧
    splitWord (encode (.setPw c opd)) = ⟨0x7, BitVec.ofNat 5 c.val, 0, opd⟩ ∧
    splitWord (encode (.getPw c)) = ⟨0x8, BitVec.ofNat 5 c.val, 0, 0⟩ ∧
    splitWord (encode (.setPwPct c opd)) = ⟨0x9, BitVec.ofNat 5 c.val, 0, opd⟩ ∧
    splitWord (encode (.getPwPct c)) = ⟨0xA, BitVec.ofNat 5 c.val, 0, 0⟩ ∧
    splitWord (encode (.servoInit c)) = ⟨0xB, BitVec.ofNat 5 c.val, 0, 0⟩ ∧
    splitWord (encode (.servoAngle c opd)) = ⟨0xC, BitVec.ofNat 5 c.val, 0, opd⟩ ∧
    splitWord (encode (.getAngle c)) = ⟨0xD, BitVec.ofNat 5 c.val, 0, 0⟩ ∧
    splitWord (encode (.getSync c)) = ⟨0xE, BitVec.ofNat 5 c.val, 0, 0⟩

/-- R70, R73, R74: the word of every command decodes to that command, with its channel and every operand value. -/
def Obligations.DecodeOfEncode : Prop := ∀ i : Instr, decode (encode i) = .ok i

/-- R77: a word that decodes is the one word of the command it decodes to, so no word but those of R73 is accepted. -/
def Obligations.EncodeOfDecode : Prop := ∀ (w : CommandWord) (i : Instr), decode w = .ok i → encode i = w

/-- R71: the reason a word does not decode is the first test it fails, in the rule's order; a word that passes all of them decodes
to the command of its fields; and a word that does not decode writes no state, issues no write and is answered
`0x4000000000000000`. -/
def Obligations.DecodeChecksInOrder : Prop :=
  (∀ w : CommandWord,
    ((splitWord w).legalOpcode = false → decode w = .error .reservedOpcode) ∧
    ((splitWord w).legalOpcode = true → (splitWord w).legalChannel = false → decode w = .error .noSuchChannel) ∧
    ((splitWord w).legalOpcode = true → (splitWord w).legalChannel = true → (splitWord w).legalReserved = false →
      decode w = .error .reservedBits) ∧
    ((splitWord w).legalOpcode = true → (splitWord w).legalChannel = true → (splitWord w).legalReserved = true →
      (splitWord w).legalOperand = false → decode w = .error .nonzeroOperand) ∧
    ((splitWord w).wellFormed = true → ∃ i, decode w = .ok i ∧ i.fields = splitWord w)) ∧
  ∀ (s : State) (w : CommandWord) (rest : List HostEvent) (r : IllegalReason),
    s.phase = .idle → s.inbox = .command w :: rest → decode w = .error r →
      step s = .next { s with inbox := rest, responses := s.responses ++ [0x4000000000000000] }

/-- The encoding examples of 30_encoding.md section 5: each line assembles to its word, and the word decodes to the command. -/
def Obligations.ExampleWords : Prop :=
  (assemble "FREQ_HZ 0, 50".toList = some 0x1000000000320000 ∧
    assemble "SET_FREQ 0, 0x320000".toList = some 0x1000000000320000 ∧
    decode 0x1000000000320000 = .ok (.setFreq 0 0x320000)) ∧
  (assemble "FREQ_HZ 1, 1000".toList = some 0x1080000003E80000 ∧
    assemble "SET_FREQ 1, 0x3E80000".toList = some 0x1080000003E80000 ∧
    decode 0x1080000003E80000 = .ok (.setFreq 1 0x3E80000)) ∧
  (assemble "ANGLE_DEG 0, -90".toList = some 0xC000FFFFFFFFA600 ∧
    assemble "SERVO_ANGLE 0, -23040".toList = some 0xC000FFFFFFFFA600 ∧
    decode 0xC000FFFFFFFFA600 = .ok (.servoAngle 0 0xFFFFFFFFA600)) ∧
  (assemble "ANGLE_DEG 19, 90".toList = some 0xC980000000005A00 ∧
    assemble "SERVO_ANGLE 19, 23040".toList = some 0xC980000000005A00 ∧
    decode 0xC980000000005A00 = .ok (.servoAngle 19 0x5A00)) ∧
  (assemble "SERVO_INIT 4".toList = some 0xB200000000000000 ∧
    decode 0xB200000000000000 = .ok (.servoInit 4)) ∧
  (assemble "DUTY 2, 50".toList = some 0x9100000000320000 ∧
    assemble "SET_PW_PCT 2, 0x320000".toList = some 0x9100000000320000 ∧
    decode 0x9100000000320000 = .ok (.setPwPct 2 0x320000)) ∧
  (assemble "SET_PW 3, -5".toList = some 0x7180FFFFFFFFFFFB ∧
    decode 0x7180FFFFFFFFFFFB = .ok (.setPw 3 0xFFFFFFFFFFFB)) ∧
  (assemble "GET_FREQ 16".toList = some 0x2800000000000000 ∧
    decode 0x2800000000000000 = .ok (.getFreq 16))

/-- R80: the one command of each pseudo-instruction, with its operand and its condition. -/
def Obligations.PseudoInstructions : Prop :=
  ∀ (c : Channel) (n : Int),
    (0 ≤ n → n < 2 ^ 32 → ∃ opd : Operand, (opd.toNat : Int) = n * 65536 ∧
      (Pseudo.freqHz c n).expand = some (.setFreq c opd) ∧ (Pseudo.duty c n).expand = some (.setPwPct c opd)) ∧
    (n < 0 ∨ 2 ^ 32 ≤ n → (Pseudo.freqHz c n).expand = none ∧ (Pseudo.duty c n).expand = none) ∧
    (-2 ^ 39 ≤ n → n < 2 ^ 39 → ∃ opd : Operand, opd.toInt = n * 256 ∧
      (Pseudo.angleDeg c n).expand = some (.servoAngle c opd)) ∧
    (n < -2 ^ 39 ∨ 2 ^ 39 ≤ n → (Pseudo.angleDeg c n).expand = none)

/-- R75, R76: where the fields of a response and of its 16-bit results stand. -/
def Obligations.ResponseWordFields : Prop :=
  (∀ (st : Status) (w : Nat) (r : Operand), w ≤ 3 →
    (responseWord st w r).toNat = st.code.toNat * 2 ^ 60 + w * 2 ^ 48 + r.toNat) ∧
  (∀ n : Nat, n ≤ 65535 → (zext48 n).toNat = n) ∧
  (∀ p T : Nat, p ≤ 65535 → T ≤ 65535 → (pairResult p T).toNat = p * 2 ^ 16 + T) ∧
  (Status.ok.code = 0 ∧ Status.rangeError.code = 1 ∧ Status.conflictError.code = 2 ∧ Status.busError.code = 3 ∧
    Status.illegal.code = 4 ∧ Status.unset.code = 5)

/-! ## The step -/

/-- R10, R31, R71: an IDLE PFR that finds a word offered which decodes to `i` accepts it, which makes it BUSY and takes the word off
the port, and its step is `exec i`; the same of the word `withFetchWord` offers. That offers are a list in the state, and what
`withFetchWord` offers, is the model's choice (log 1, DESIGN CHOICE). -/
def Obligations.StepRunsDecodedCommand : Prop :=
  (∀ (s : State) (w : CommandWord) (rest : List HostEvent) (i : Instr),
    s.phase = .idle → s.inbox = .command w :: rest → decode w = .ok i →
      step s = exec i { s with inbox := rest, phase := .busy }) ∧
  ∀ (s : State) (nbits w : Nat) (i : Instr), decodeTableWord nbits w = some i →
    step (s.withFetchWord nbits w) = exec i { s with phase := .busy, outstanding := none }

/-- Where the machine stops, in the model's form: every command answers a next state, also where the Bus falls silent, and a PFR left
BUSY has no step but the fault `busNeverAnswers` (log 3, DEDUCED from R10 and R209); an IDLE PFR always has a step, neither fault
nor refusal, which changes nothing where no event has come (log 1, DESIGN CHOICE, for R234's waiting). -/
def Obligations.StopsOnlyWhileBusy : Prop :=
  (∀ (i : Instr) (s : State), ∃ t, exec i s = .next t) ∧
  (∀ s : State, s.phase = .busy → step s = .fault .busNeverAnswers) ∧
  (∀ s : State, s.phase = .idle → ∃ t, step s = .next t) ∧
  (∀ s : State, s.phase = .idle → s.inbox = [] → step s = .next s)

/-- R209, in the form log 3 gives it (DEDUCED: a next state that is BUSY, and no step from there): a command whose write the Bus never
answers gets no response and leaves PFR BUSY with that write outstanding, and then there is no step, so that no further command is
accepted. `s.busEvents` are the answers the Bus still gives, and one is used up by each write; if they are enough, the command is
answered. If the Bus answers `OK` to `k` writes and then never again, and the command has a write after those, PFR is left BUSY
with that write, the (k+1)-th of the command: whichever command it is, and whichever of its writes. -/
def Obligations.SilentBusLeavesPfrBusy : Prop :=
  ∀ (s : State) (w : CommandWord) (rest : List HostEvent) (i : Instr),
    s.phase = .idle → s.outstanding = none → s.inbox = .command w :: rest → decode w = .ok i →
    OnlyAnswers s.busEvents →
      ∃ t log, step s = .next t ∧ t.busLog = s.busLog ++ log ∧ (∀ r ∈ log, r.answer.isSome) ∧
        s.busEvents.length = log.length + t.busEvents.length ∧
        ((t.phase = .idle ∧ t.outstanding = none ∧ ∃ r, t.responses = s.responses ++ [r]) ∨
         (t.phase = .busy ∧ t.outstanding.isSome ∧ t.busEvents = [] ∧ t.responses = s.responses ∧
            step t = .fault .busNeverAnswers)) ∧
        ∀ k q, s.busEvents = List.replicate k .ok → (plannedWrites s i)[k]? = some q →
          t.phase = .busy ∧ t.outstanding = some q ∧ t.responses = s.responses ∧ step t = .fault .busNeverAnswers ∧
            log = ((plannedWrites s i).take k).map fun q => ⟨q, some .ok⟩

/-- 70_reset_and_hazards.md section 4, an inference the specification marks as its own: if every write is answered, every accepted command is answered, with one response. A command
issues at most three writes, so three answers are enough. -/
def Obligations.AnsweringBusGivesOneResponse : Prop :=
  ∀ (i : Instr) (s : State), OnlyAnswers s.busEvents → 3 ≤ s.busEvents.length → s.outstanding = none →
    ∃ t r, exec i s = .next t ∧ t.phase = .idle ∧ t.outstanding = none ∧ t.responses = s.responses ++ [r]

/-! ## Reset -/

/-- R231, R232: the registers of every timer and channel, after reset and after a whole-block reset in any state. -/
def Obligations.ResetRegisterValues : Prop :=
  ∀ s : State, (s = State.reset ∨ (∃ b, s = State.resetWith b) ∨ ∃ u : State, s = u.blockReset) →
    (∀ t, (s.timer t).psc = none ∧ (s.timer t).arr = 1 ∧ (s.timer t).pscUns = true ∧ (s.timer t).arrUns = true) ∧
    (∀ c, (s.channel c).pw = none ∧ (s.channel c).pct = none ∧ (s.channel c).angle = none ∧
      (s.channel c).req = .unclaimed ∧ (s.channel c).pwUns = true)

/-- R234, R235: the whole-block reset of an IDLE PFR changes neither `CONFLICT_CHECK` nor what is known of the device, writes
nothing and answers nothing, and PFR then waits for a command (a step that changes nothing: log 1, DESIGN CHOICE); a reset of the device alone changes nothing in PFR, and nothing
is known of any device register after it (log 6). -/
def Obligations.ResetsReachOneSideOnly : Prop :=
  ∀ (s : State) (rest : List HostEvent), s.phase = .idle → s.outstanding = none →
    (s.inbox = .reset :: rest → ∃ t, step s = .next t ∧ t.timers = (State.resetWith s.conflictCheck).timers ∧
      t.channels = (State.resetWith s.conflictCheck).channels ∧ t.phase = .idle ∧ t.outstanding = none ∧
      t.conflictCheck = s.conflictCheck ∧ t.device = s.device ∧ t.busLog = s.busLog ∧ t.responses = s.responses ∧
      t.inbox = rest ∧ (rest = [] → step t = .next t)) ∧
    (s.inbox = .deviceReset :: rest → ∃ t, step s = .next t ∧ t = { s with inbox := rest, device := t.device } ∧
      ∀ a, t.device.read a = none)

/-- R233: a command that ends with no response and no write outstanding was abandoned by a whole-block reset, and PFR is at its reset
values and IDLE. The writes answered before stand in the log; the last one either got no answer, and its register is unknown, or
was answered `OK`. A reset before the response leaves no response either. At which points a reset can come is the model's
reading (log 4). -/
def Obligations.ResetWhileBusyAbandons : Prop :=
  (∀ (i : Instr) (s t : State), s.outstanding = none → exec i s = .next t → t.outstanding = none →
    t.responses = s.responses →
      t.timers = (State.resetWith s.conflictCheck).timers ∧ t.channels = (State.resetWith s.conflictCheck).channels ∧
      t.phase = .idle ∧ t.conflictCheck = s.conflictCheck ∧
      ∃ log q a, t.busLog = s.busLog ++ log ++ [⟨q, a⟩] ∧ (∀ r ∈ log, r.answer = some .ok) ∧
        (a = none ∧ t.device.read q.reg.toNat = none ∨ a = some .ok ∧ t.device.read q.reg.toNat = some q.value)) ∧
  (∀ (c : Channel) (opd : Operand) (s : State) (es : List BusEvent),
    s.busEvents = .reset :: es ∨ s.busEvents = .okThenReset :: es →
      ∃ t, exec (.setPw c opd) s = .next t ∧ t.outstanding = none ∧ t.responses = s.responses ∧ t.busEvents = es) ∧
  ∀ (s : State) (w : CommandWord) (rest : List HostEvent), s.phase = .idle → s.outstanding = none →
    s.inbox = .commandThenReset w :: rest →
      ∃ t, step s = .next t ∧ t.timers = (State.resetWith s.conflictCheck).timers ∧
        t.channels = (State.resetWith s.conflictCheck).channels ∧ t.phase = .idle ∧ t.outstanding = none ∧
        t.responses = s.responses ∧ t.inbox = rest ∧ t.conflictCheck = s.conflictCheck

/-! ## Invariants -/

/-- R21, R231, R232: the state after reset is legal, for either `CONFLICT_CHECK`; its shadows agree with the device and its claims
hold, there being none. -/
def Obligations.ResetStateIsLegal : Prop :=
  ∀ b, (State.resetWith b).Legal ∧ (State.resetWith b).Synced ∧ (State.resetWith b).ClaimsHold

/-- Every step keeps every register at a legal value (R21), the device contents canonical and known only of the 34 registers, the
requests to those (R51), and a write outstanding exactly where it ends with PFR BUSY: an IDLE PFR has none (R31), and because a
step is a whole command (R10), one leaves PFR BUSY only in the wait for an answer that never comes (log 3, DEDUCED). -/
def Obligations.StepKeepsLegalState : Prop := ∀ s t : State, s.Legal → step s = .next t → t.Legal

/-- 43_status.md, "Sync flags and the shadows together tell the host exactly what PFR can vouch for", the specification's own
inference: where the device is never reset
alone, every step keeps the device holding the register image of each shadow whose flag is 0 and whose register has no write
outstanding. -/
def Obligations.StepKeepsShadowsSynced : Prop :=
  ∀ s t : State, s.NoDeviceReset → s.Legal → s.Synced → step s = .next t → t.NoDeviceReset ∧ t.Synced

/-- 40_timer.md, "Claim bookkeeping in `program_timer`", the specification's own inference: under `CONFLICT_CHECK` every step keeps the claims true of their timers'
shadows. -/
def Obligations.StepKeepsClaimsTrue : Prop := ∀ s t : State, s.ClaimsHold → step s = .next t → t.ClaimsHold

/-- 40_timer.md, "Claims can lock a timer group", the specification's own inference: under `CONFLICT_CHECK`, where two channels of a group hold the same claim, a
command on any channel of the group that would leave another claim is refused, and changes nothing. -/
def Obligations.EqualClaimsLockTheirGroup : Prop :=
  ∀ (s : State) (c₁ c₂ : Channel) (i : Instr) (new : Claim),
    s.conflictCheck = true → c₁ ≠ c₂ → timerOf c₁ = timerOf c₂ → (s.channel c₁).req ≠ .unclaimed →
    (s.channel c₂).req = (s.channel c₁).req → timerOf i.channel = timerOf c₁ → claimLeft i = some new →
    new ≠ (s.channel c₁).req →
      exec i s = .next (s.answeredOnly .conflictError 0) ∨ exec i s = .next (s.answeredOnly .rangeError 0)

/-- R26: with `CONFLICT_CHECK = false` the claims have no observable effect: two states that differ in claims only step to states
that differ in claims only, with the same responses, bus events and device. -/
def Obligations.ClaimsUnobservableWithoutCheck : Prop :=
  ∀ s₁ s₂ t₁ : State, s₁.conflictCheck = false → s₁.eraseClaims = s₂.eraseClaims → step s₁ = .next t₁ →
    ∃ t₂, step s₂ = .next t₂ ∧ t₁.eraseClaims = t₂.eraseClaims

/-- R6, R234: no step changes `CONFLICT_CHECK`. -/
def Obligations.ConflictCheckIsFixed : Prop := ∀ s t : State, step s = .next t → t.conflictCheck = s.conflictCheck

/-! ## What every command does at the ports -/

/-- R10, R51: a command issues at most three writes, each to one of the 34 registers, the one still outstanding counted. -/
def Obligations.WritesAreFewAndListed : Prop :=
  ∀ (i : Instr) (s t : State), s.outstanding = none → exec i s = .next t →
    ∃ log, t.busLog = s.busLog ++ log ∧ log.length + t.outstanding.toList.length ≤ 3 ∧
      (∀ r ∈ log, r.request.reg ∈ deviceRegisters) ∧ ∀ q ∈ t.outstanding, q.reg ∈ deviceRegisters

/-- R75, R200: the response to an accepted word has a status of the table, reserved bits 0, as `writes` the number of the command's
writes answered `OK`, 0 to 3, and a result of 0 unless the status is OK. -/
def Obligations.ResponsesCountAcknowledgedWrites : Prop :=
  ∀ (w : CommandWord) (s t : State) (r : ResponseWord), runCommand w s = .next t → t.responses = s.responses ++ [r] →
    (responseStatus r).toNat ≤ 5 ∧ responseReserved r = 0 ∧
    (∃ log, t.busLog = s.busLog ++ log ∧ log.countP (fun b => b.answer = some .ok) = (responseWrites r).toNat) ∧
    (responseWrites r).toNat ≤ 3 ∧ (responseStatus r ≠ 0 → responseResult r = 0)

/-- R201: a status other than OK and BUS_ERROR in the response to an accepted word is a rejection: no state is written, no write is
issued, and the response has writes = 0 and result = 0. -/
def Obligations.RejectionsChangeNothing : Prop :=
  ∀ (w : CommandWord) (s t : State) (r : ResponseWord), runCommand w s = .next t → t.responses = s.responses ++ [r] →
    responseStatus r ≠ 0 → responseStatus r ≠ 3 →
      t = { s with phase := .idle, responses := s.responses ++ [r] } ∧ responseWrites r = 0 ∧ responseResult r = 0

/-- 60_exceptions.md section 3, what BUS_ERROR leaves behind: the command's writes before the failed one were answered `OK` and stay in
effect at the device, the failed one is its last and leaves its register unknown, the response counts those before it, and the
channel claims nothing if the failed write was to a timer register. -/
def Obligations.BusErrorStopsCommand : Prop :=
  ∀ (i : Instr) (s t : State) (r : ResponseWord), BusEvent.deviceReset ∉ s.busEvents → exec i s = .next t →
    t.responses = s.responses ++ [r] → responseStatus r = 3 →
      ∃ log q, t.busLog = s.busLog ++ log ++ [⟨q, some .fail⟩] ∧ (∀ b ∈ log, b.answer = some .ok) ∧
        (responseWrites r).toNat = log.length ∧ responseResult r = 0 ∧
        (∀ b ∈ log, t.device.read b.request.reg.toNat = some b.request.value) ∧ t.device.read q.reg.toNat = none ∧
        ((∃ j, q.reg = pscReg j ∨ q.reg = arrReg j) → (t.channel i.channel).req = .unclaimed)

/-- R24: where no reset comes during the command, a shadow changes only when the write to its register is answered `OK`, and is then
the value written, for `psc` the divider whose image was written; on `FAIL` it keeps its value. The sync flags follow (R25). -/
def Obligations.ShadowsFollowAnswers : Prop :=
  ∀ (i : Instr) (s t : State), NoReset s.busEvents → exec i s = .next t →
    ∃ log, t.busLog = s.busLog ++ log ∧
      (∀ j, (∀ v, ⟨⟨pscReg j, v⟩, some .ok⟩ ∈ log → (t.timer j).psc = some (v + 1) ∧ (t.timer j).pscUns = false) ∧
        (∀ v, ⟨⟨pscReg j, v⟩, some .fail⟩ ∈ log →
          (t.timer j).psc = (s.timer j).psc ∧ (t.timer j).pscUns = true) ∧
        ((∀ r ∈ log, r.request.reg ≠ pscReg j) →
          (t.timer j).psc = (s.timer j).psc ∧ (t.timer j).pscUns = (s.timer j).pscUns)) ∧
      (∀ j, (∀ v, ⟨⟨arrReg j, v⟩, some .ok⟩ ∈ log → (t.timer j).arr = v ∧ (t.timer j).arrUns = false) ∧
        (∀ v, ⟨⟨arrReg j, v⟩, some .fail⟩ ∈ log →
          (t.timer j).arr = (s.timer j).arr ∧ (t.timer j).arrUns = true) ∧
        ((∀ r ∈ log, r.request.reg ≠ arrReg j) →
          (t.timer j).arr = (s.timer j).arr ∧ (t.timer j).arrUns = (s.timer j).arrUns)) ∧
      (∀ j, (∀ v, ⟨⟨pwReg j, v⟩, some .ok⟩ ∈ log → (t.channel j).pw = some v ∧ (t.channel j).pwUns = false) ∧
        (∀ v, ⟨⟨pwReg j, v⟩, some .fail⟩ ∈ log →
          (t.channel j).pw = (s.channel j).pw ∧ (t.channel j).pwUns = true) ∧
        ((∀ r ∈ log, r.request.reg ≠ pwReg j) →
          (t.channel j).pw = (s.channel j).pw ∧ (t.channel j).pwUns = (s.channel j).pwUns))

/-- R56: after a command, a device register holds the value of the command's last write to it if that was answered `OK`, and is unknown
if it was not; a register the command did not write holds what it held; before PFR's first write a register may hold any value; and
no step depends on the device: with other contents, all but the contents is the same. -/
def Obligations.DeviceFollowsAnswers : Prop :=
  (∀ (i : Instr) (s t : State), BusEvent.deviceReset ∉ s.busEvents → s.outstanding = none → exec i s = .next t →
    t.outstanding = none →
      ∃ log, t.busLog = s.busLog ++ log ∧ ∀ a, t.device.read a = readAfter s.device log a) ∧
  (∀ b contents, (State.resetWith b).device.Admits contents) ∧
  ∀ (s t : State) (d : Memory), step s = .next t → ∃ d', step { s with device := d } = .next { t with device := d' }

/-- R53: a register write is the three bytes address, high byte, low byte, and the device that takes them holds the value in that
register and nothing else anew. -/
def Obligations.WriteTransactionBytes : Prop :=
  (∀ q : BusRequest, ∃ hi lo : Byte, q.wireBytes = [q.reg, hi, lo] ∧ q.value.toNat = hi.toNat * 256 + lo.toNat) ∧
  ∀ (m : Memory) (q : BusRequest) (a : Nat),
    (m.receive q.wireBytes).read a = if a = q.reg.toNat then some q.value else m.read a

/-! ## Timer family -/

/-- R100: the channel-to-timer map. -/
def Obligations.ChannelToTimerMap : Prop :=
  ∀ c : Channel, (c.val ≤ 15 → (timerOf c).val = c.val / 4) ∧ (c.val = 16 ∨ c.val = 17 → timerOf c = 4) ∧
    (c.val = 18 → timerOf c = 5) ∧ (c.val = 19 → timerOf c = 6)

/-- R51: the addresses of the device registers, which are the 34 listed ones, all different. -/
def Obligations.RegisterAddressMap : Prop :=
  (∀ c : Channel, (pwReg c).toNat = 0x20 + c.val) ∧
  (∀ t : TimerIndex, (t.val < 4 → (pscReg t).toNat = 0x40 + t.val ∧ (arrReg t).toNat = 0x44 + t.val) ∧
    (4 ≤ t.val → (pscReg t).toNat = 0x50 + (t.val - 4) ∧ (arrReg t).toNat = 0x54 + (t.val - 4))) ∧
  (List.finRange 20).map pwReg ++ (List.finRange 7).map pscReg ++ (List.finRange 7).map arrReg = deviceRegisters ∧
  deviceRegisters.Nodup ∧ deviceRegisters.length = 34

/-- R13: `isqrt` is the exact integer square root, also of the floor of a rational (the specification's own inference), and `rne` of an exact fraction rounds to the
nearest integer, ties to even. -/
def Obligations.ExactRootAndRounding : Prop :=
  (∀ n s : Nat, s * s ≤ n ↔ s ≤ isqrt n) ∧
  (∀ (q : ℚ) (s : Nat), 0 ≤ q → (((s * s : Nat) : ℚ) ≤ q ↔ s ≤ isqrt ⌊q⌋.toNat)) ∧
  (∀ num den : Nat, 0 < den →
    let q : ℚ := (num : ℚ) / den
    let r : ℚ := q - ⌊q⌋
    (r < 1 / 2 → (rne num den : ℤ) = ⌊q⌋) ∧ (1 / 2 < r → (rne num den : ℤ) = ⌊q⌋ + 1) ∧
    (r = 1 / 2 → (⌊q⌋ % 2 = 0 → (rne num den : ℤ) = ⌊q⌋) ∧ (⌊q⌋ % 2 = 1 → (rne num den : ℤ) = ⌊q⌋ + 1)))

/-- R102: the resolver answers the candidate of least exact error `|CLOCK_HZ/(p*T) - F/2^16|` among the programmable ones of the ten
dividers from `max(1, isqrt(floor(K/F)) - 5)`, the smallest divider of a tie, and no pair exactly where none is programmable. -/
def Obligations.ResolverFindsFirstMinimum : Prop :=
  ∀ F : Nat, 1 ≤ F →
    let p0 := max 1 (Nat.sqrt (4718592000000 / F) - 5)
    let period : Nat → Nat := fun p => 4718592000000 / (F * p)
    let usable : Nat → Prop := fun p => p0 ≤ p ∧ p < p0 + 10 ∧ 1 ≤ period p ∧ period p ≤ 65535 ∧ p ≤ 65535
    let error : Nat → ℚ := fun p => |(72000000 : ℚ) / (p * period p) - (F : ℚ) / 65536|
    (resolve F = none ↔ ∀ p, ¬ usable p) ∧
    ∀ p T, resolve F = some ⟨p, T⟩ ↔
      usable p ∧ T = period p ∧ (∀ q, usable q → error p ≤ error q) ∧ ∀ q, usable q → q < p → error p < error q

/-- 40_timer.md, the range of the resolver, the specification's own inference: a pair is found exactly for 1099 ≤ F ≤ K, and all ten candidates are programmable exactly up
to 7.2 MHz; with the rule's instances. -/
def Obligations.ResolverRange : Prop :=
  (∀ F : Nat, 1 ≤ F → ((resolve F).isSome ↔ 1099 ≤ F ∧ F ≤ 4718592000000)) ∧
  (∀ F : Nat, 1 ≤ F → ((window F).length = 10 ↔ 1099 ≤ F ∧ F ≤ 7200000 * 65536)) ∧
  (∀ F p : Nat, 4718592000000 < F → (candidate F p).T = 0) ∧
  firstDivider 1098 = 65549 ∧ firstDivider 1099 = 65520 ∧ resolve 1099 = some ⟨65525, 65525⟩

/-- R107, with R103, R104 and R110 in it: SET_FREQ is refused with RANGE_ERROR for F = 0 and for an unresolvable F, and after that with
CONFLICT_ERROR for a refusing claim, and then nothing else changes. Otherwise it writes `p - 1` to the prescaler register and then
`T` to the period register, records the claim, writes the standing percentage of the new period where there is one, and answers OK
with p and T. It stops at its first failed write with BUS_ERROR and the number of writes acknowledged; the earlier writes stay, the
failed register is unsynced, and the channel claims nothing if a timer write failed. -/
def Obligations.SetFreqProgramsTimer : Prop :=
  ∀ (s : State) (c : Channel) (F : Operand),
    (F = 0 ∨ resolve F.toNat = none → exec (.setFreq c F) s = .next (s.answeredOnly .rangeError 0)) ∧
    (F ≠ 0 → (∃ r, resolve F.toNat = some r) → s.Blocked c (.freq F) →
      exec (.setFreq c F) s = .next (s.answeredOnly .conflictError 0)) ∧
    ∀ (r : Candidate) (es : List BusEvent), F ≠ 0 → resolve F.toNat = some r → ¬ s.Blocked c (.freq F) →
      ((s.channel c).pct = none → s.busEvents = .ok :: .ok :: es →
        ∃ t, exec (.setFreq c F) s = .next t ∧
          Ended s t [wrote (pscReg (timerOf c)) (r.p - 1) .ok, wrote (arrReg (timerOf c)) r.T .ok] es
            (responseWord .ok 2 (pairResult r.p r.T)) ∧
          t.timer (timerOf c) = ⟨some (BitVec.ofNat 16 r.p), BitVec.ofNat 16 r.T, false, false⟩ ∧
          t.channel c = { s.channel c with req := .freq F } ∧ SameExcept s t (timerOf c) c) ∧
      (∀ P, (s.channel c).pct = some P → s.busEvents = .ok :: .ok :: .ok :: es →
        ∃ t, exec (.setFreq c F) s = .next t ∧
          Ended s t [wrote (pscReg (timerOf c)) (r.p - 1) .ok, wrote (arrReg (timerOf c)) r.T .ok,
              wrote (pwReg c) (rne (P.toNat * r.T) (100 * 65536)) .ok] es
            (responseWord .ok 3 (pairResult r.p r.T)) ∧
          t.timer (timerOf c) = ⟨some (BitVec.ofNat 16 r.p), BitVec.ofNat 16 r.T, false, false⟩ ∧
          t.channel c = { s.channel c with
            req := .freq F, pw := some (BitVec.ofNat 16 (rne (P.toNat * r.T) (100 * 65536))), pwUns := false } ∧
          SameExcept s t (timerOf c) c) ∧
      (s.busEvents = .fail :: es →
        ∃ t, exec (.setFreq c F) s = .next t ∧
          Ended s t [wrote (pscReg (timerOf c)) (r.p - 1) .fail] es (responseWord .busError 0 0) ∧
          t.timer (timerOf c) = { s.timer (timerOf c) with pscUns := true } ∧
          t.channel c = { s.channel c with req := .unclaimed } ∧ SameExcept s t (timerOf c) c) ∧
      (s.busEvents = .ok :: .fail :: es →
        ∃ t, exec (.setFreq c F) s = .next t ∧
          Ended s t [wrote (pscReg (timerOf c)) (r.p - 1) .ok, wrote (arrReg (timerOf c)) r.T .fail] es
            (responseWord .busError 1 0) ∧
          t.timer (timerOf c) =
            { s.timer (timerOf c) with psc := some (BitVec.ofNat 16 r.p), pscUns := false, arrUns := true } ∧
          t.channel c = { s.channel c with req := .unclaimed } ∧ SameExcept s t (timerOf c) c) ∧
      (∀ P, (s.channel c).pct = some P → s.busEvents = .ok :: .ok :: .fail :: es →
        ∃ t, exec (.setFreq c F) s = .next t ∧
          Ended s t [wrote (pscReg (timerOf c)) (r.p - 1) .ok, wrote (arrReg (timerOf c)) r.T .ok,
              wrote (pwReg c) (rne (P.toNat * r.T) (100 * 65536)) .fail] es (responseWord .busError 2 0) ∧
          t.timer (timerOf c) = ⟨some (BitVec.ofNat 16 r.p), BitVec.ofNat 16 r.T, false, false⟩ ∧
          t.channel c = { s.channel c with req := .freq F, pwUns := true } ∧ SameExcept s t (timerOf c) c)

/-- R111, R106: GET_FREQ answers UNSET before the first acknowledged prescaler write, and otherwise
`floor(CLOCK_HZ * 2^16 / (psc * arr))`, from the shadows alone. -/
def Obligations.GetFreqReadsAchieved : Prop :=
  ∀ (s : State) (c : Channel),
    ((s.timer (timerOf c)).psc = none → exec (.getFreq c) s = .next (s.answeredOnly .unset 0)) ∧
    ∀ p, (s.timer (timerOf c)).psc = some p →
      exec (.getFreq c) s = .next (s.answeredOnly .ok
        (BitVec.ofNat 48 (72000000 * 65536 / (p.toNat * (s.timer (timerOf c)).arr.toNat))))

/-- R112: SET_PERIOD: RANGE_ERROR outside 1..65535, then CONFLICT_ERROR under a refusing claim, then one write of n to the period
register; the claim of the channel goes in either outcome of the write. -/
def Obligations.SetPeriodWritesPeriod : Prop :=
  ∀ (s : State) (c : Channel) (n : Operand) (es : List BusEvent),
    (n.toNat = 0 ∨ 65535 < n.toNat → exec (.setPeriod c n) s = .next (s.answeredOnly .rangeError 0)) ∧
    (1 ≤ n.toNat → n.toNat ≤ 65535 → s.Blocked c .unclaimed →
      exec (.setPeriod c n) s = .next (s.answeredOnly .conflictError 0)) ∧
    (1 ≤ n.toNat → n.toNat ≤ 65535 → ¬ s.Blocked c .unclaimed → s.busEvents = .ok :: es →
      ∃ t, exec (.setPeriod c n) s = .next t ∧
        Ended s t [wrote (arrReg (timerOf c)) n.toNat .ok] es (responseWord .ok 1 n) ∧
        t.timer (timerOf c) = { s.timer (timerOf c) with arr := n.setWidth 16, arrUns := false } ∧
        t.channel c = { s.channel c with req := .unclaimed } ∧ SameExcept s t (timerOf c) c) ∧
    (1 ≤ n.toNat → n.toNat ≤ 65535 → ¬ s.Blocked c .unclaimed → s.busEvents = .fail :: es →
      ∃ t, exec (.setPeriod c n) s = .next t ∧
        Ended s t [wrote (arrReg (timerOf c)) n.toNat .fail] es (responseWord .busError 0 0) ∧
        t.timer (timerOf c) = { s.timer (timerOf c) with arrUns := true } ∧
        t.channel c = { s.channel c with req := .unclaimed } ∧ SameExcept s t (timerOf c) c)

/-- R113: GET_PERIOD always answers OK with `arr` of the channel's timer. -/
def Obligations.GetPeriodReadsPeriod : Prop :=
  ∀ (s : State) (c : Channel) (T : RegValue), (s.timer (timerOf c)).arr = T →
    exec (.getPeriod c) s = .next (s.answeredOnly .ok (T.setWidth 48))

/-- R114: SET_PRESCALER: RANGE_ERROR outside 1..65535, then CONFLICT_ERROR under a refusing claim, then one write of n - 1 to the
prescaler register, whose shadow is the divider n. -/
def Obligations.SetPrescalerWritesDivider : Prop :=
  ∀ (s : State) (c : Channel) (n : Operand) (es : List BusEvent),
    (n.toNat = 0 ∨ 65535 < n.toNat → exec (.setPrescaler c n) s = .next (s.answeredOnly .rangeError 0)) ∧
    (1 ≤ n.toNat → n.toNat ≤ 65535 → s.Blocked c .unclaimed →
      exec (.setPrescaler c n) s = .next (s.answeredOnly .conflictError 0)) ∧
    (1 ≤ n.toNat → n.toNat ≤ 65535 → ¬ s.Blocked c .unclaimed → s.busEvents = .ok :: es →
      ∃ t, exec (.setPrescaler c n) s = .next t ∧
        Ended s t [wrote (pscReg (timerOf c)) (n.toNat - 1) .ok] es (responseWord .ok 1 n) ∧
        t.timer (timerOf c) = { s.timer (timerOf c) with psc := some (n.setWidth 16), pscUns := false } ∧
        t.channel c = { s.channel c with req := .unclaimed } ∧ SameExcept s t (timerOf c) c) ∧
    (1 ≤ n.toNat → n.toNat ≤ 65535 → ¬ s.Blocked c .unclaimed → s.busEvents = .fail :: es →
      ∃ t, exec (.setPrescaler c n) s = .next t ∧
        Ended s t [wrote (pscReg (timerOf c)) (n.toNat - 1) .fail] es (responseWord .busError 0 0) ∧
        t.timer (timerOf c) = { s.timer (timerOf c) with pscUns := true } ∧
        t.channel c = { s.channel c with req := .unclaimed } ∧ SameExcept s t (timerOf c) c)

/-- R115: GET_PRESCALER answers UNSET before the first acknowledged prescaler write, and otherwise the divider, not the register
image. -/
def Obligations.GetPrescalerReadsDivider : Prop :=
  ∀ (s : State) (c : Channel),
    ((s.timer (timerOf c)).psc = none → exec (.getPrescaler c) s = .next (s.answeredOnly .unset 0)) ∧
    ∀ p, (s.timer (timerOf c)).psc = some p →
      exec (.getPrescaler c) s = .next (s.answeredOnly .ok (p.setWidth 48))

/-- 40_timer.md section 4, the sharing property, the specification's own inference: after SET_FREQ on one channel, GET_PERIOD and GET_FREQ on every channel of its group
answer the period and the frequency it programmed. -/
def Obligations.SiblingsReadBackSharedTimer : Prop :=
  ∀ (s : State) (c c' : Channel) (F : Operand) (r : Candidate) (es : List BusEvent),
    F ≠ 0 → resolve F.toNat = some r → ¬ s.Blocked c (.freq F) → (s.channel c).pct = none →
    s.busEvents = .ok :: .ok :: es → timerOf c' = timerOf c →
      ∃ t, exec (.setFreq c F) s = .next t ∧
        exec (.getPeriod c') t = .next (t.answeredOnly .ok (BitVec.ofNat 48 r.T)) ∧
        exec (.getFreq c') t = .next (t.answeredOnly .ok (BitVec.ofNat 48 (4718592000000 / (r.p * r.T))))

/-! ## Pulse-width family -/

/-- R140: SET_PW writes its operand clamped to 0..65535 to the channel's pulse-width register; acknowledged, it replaces any standing
percentage; failed, it changes the sync flag alone. -/
def Obligations.SetPwWritesClampedWidth : Prop :=
  ∀ (s : State) (c : Channel) (v : Operand) (w : Nat) (es : List BusEvent),
    ((v.toInt < 0 ∧ w = 0) ∨ (65535 < v.toInt ∧ w = 65535) ∨ (w : Int) = v.toInt ∧ w ≤ 65535) →
    (s.busEvents = .ok :: es →
      ∃ t, exec (.setPw c v) s = .next t ∧
        Ended s t [wrote (pwReg c) w .ok] es (responseWord .ok 1 (BitVec.ofNat 48 w)) ∧
        t.channel c = { s.channel c with pw := some (BitVec.ofNat 16 w), pwUns := false, pct := none } ∧
        t.timers = s.timers ∧ SameExcept s t (timerOf c) c) ∧
    (s.busEvents = .fail :: es →
      ∃ t, exec (.setPw c v) s = .next t ∧
        Ended s t [wrote (pwReg c) w .fail] es (responseWord .busError 0 0) ∧
        t.channel c = { s.channel c with pwUns := true } ∧ t.timers = s.timers ∧ SameExcept s t (timerOf c) c)

/-- R141: GET_PW answers UNSET before the first acknowledged pulse-width write, and otherwise the last acknowledged count. -/
def Obligations.GetPwReadsWidth : Prop :=
  ∀ (s : State) (c : Channel),
    ((s.channel c).pw = none → exec (.getPw c) s = .next (s.answeredOnly .unset 0)) ∧
    ∀ w, (s.channel c).pw = some w → exec (.getPw c) s = .next (s.answeredOnly .ok (w.setWidth 48))

/-- R142: SET_PW_PCT: RANGE_ERROR above 100 percent; otherwise it writes the percentage of the timer's period, rounded to even, and
keeps the percentage; failed, it changes the sync flag alone. -/
def Obligations.SetPwPctWritesShareOfPeriod : Prop :=
  ∀ (s : State) (c : Channel) (P : Operand) (es : List BusEvent),
    (6553600 < P.toNat → exec (.setPwPct c P) s = .next (s.answeredOnly .rangeError 0)) ∧
    (P.toNat ≤ 6553600 → s.busEvents = .ok :: es →
      ∃ t, exec (.setPwPct c P) s = .next t ∧
        Ended s t [wrote (pwReg c) (rne (P.toNat * (s.timer (timerOf c)).arr.toNat) (100 * 65536)) .ok] es
          (responseWord .ok 1 (BitVec.ofNat 48 (rne (P.toNat * (s.timer (timerOf c)).arr.toNat) (100 * 65536)))) ∧
        t.channel c = { s.channel c with
          pw := some (BitVec.ofNat 16 (rne (P.toNat * (s.timer (timerOf c)).arr.toNat) (100 * 65536)))
          pwUns := false
          pct := some P } ∧ t.timers = s.timers ∧ SameExcept s t (timerOf c) c) ∧
    (P.toNat ≤ 6553600 → s.busEvents = .fail :: es →
      ∃ t, exec (.setPwPct c P) s = .next t ∧
        Ended s t [wrote (pwReg c) (rne (P.toNat * (s.timer (timerOf c)).arr.toNat) (100 * 65536)) .fail] es
          (responseWord .busError 0 0) ∧
        t.channel c = { s.channel c with pwUns := true } ∧ t.timers = s.timers ∧ SameExcept s t (timerOf c) c)

/-- The corner cases of 41_pulse_width.md's SET_PW_PCT: the count never exceeds the period, 0 percent is 0, 100 percent is the period. -/
def Obligations.PctCountStaysInPeriod : Prop :=
  ∀ (P : Nat) (arr : RegValue),
    (P ≤ 6553600 → pctCount P arr ≤ arr.toNat) ∧ pctCount 0 arr = 0 ∧ pctCount 6553600 arr = arr.toNat

/-- R143: GET_PW_PCT answers UNSET where no percentage stands, and otherwise the percentage last requested. -/
def Obligations.GetPwPctReadsPercentage : Prop :=
  ∀ (s : State) (c : Channel),
    ((s.channel c).pct = none → exec (.getPwPct c) s = .next (s.answeredOnly .unset 0)) ∧
    ∀ P, (s.channel c).pct = some P → exec (.getPwPct c) s = .next (s.answeredOnly .ok P)

/-! ## Servo family -/

/-- R160: the count of an angle is the exact rational `pulse_us / 20000 * 4095` of the clamped angle, rounded to nearest with ties to
even; it is 102 at -90 degrees, 512 at +90 degrees, between them in between, and never decreases. The integer form, the end values
and the monotony are the specification's own inference. -/
def Obligations.ServoCountIsLinearMap : Prop :=
  (∀ A : Int,
    let a : Int := max (-23040) (min A 23040)
    let pulse : ℚ := 500 + ((a : ℚ) / 256 + 90) / 180 * 2000
    let x : ℚ := pulse / 20000 * 4095
    |x - servoCount A| ≤ 1 / 2 ∧ (|x - servoCount A| = 1 / 2 → servoCount A % 2 = 0) ∧
    servoCount A = rne (9434880 + 819 * (a + 23040).toNat) 92160 ∧ 102 ≤ servoCount A ∧ servoCount A ≤ 512) ∧
  (∀ A B : Int, A ≤ B → servoCount A ≤ servoCount B) ∧ servoCount (-23040) = 102 ∧ servoCount 23040 = 512

/-- 42_servo.md section 1, the exact ties, the specification's own inference: the count of a clamped angle is halfway between two integers at five angles only, and goes to
the even one. -/
def Obligations.ServoCountTies : Prop :=
  (∀ a : Int, -23040 ≤ a → a ≤ 23040 →
    (2 * ((9434880 + 819 * (a + 23040)) % 92160) = 92160 ↔
      a = -19200 ∨ a = -8960 ∨ a = 1280 ∨ a = 11520 ∨ a = 21760)) ∧
  servoCount (-19200) = 136 ∧ servoCount (-8960) = 228 ∧ servoCount 1280 = 318 ∧ servoCount 11520 = 410 ∧
  servoCount 21760 = 500

/-- R162: SERVO_INIT: CONFLICT_ERROR under a refusing claim; otherwise it writes 351 to the prescaler register and 4095 to the period
register, claims SERVO and drops the standing percentage; it stops at the first failed write and the channel then claims
nothing and keeps its percentage. -/
def Obligations.ServoInitProgramsCarrier : Prop :=
  ∀ (s : State) (c : Channel) (es : List BusEvent),
    (s.Blocked c .servo → exec (.servoInit c) s = .next (s.answeredOnly .conflictError 0)) ∧
    (¬ s.Blocked c .servo → s.busEvents = .ok :: .ok :: es →
      ∃ t, exec (.servoInit c) s = .next t ∧
        Ended s t [wrote (pscReg (timerOf c)) 351 .ok, wrote (arrReg (timerOf c)) 4095 .ok] es
          (responseWord .ok 2 0x01600FFF) ∧
        t.timer (timerOf c) = ⟨some 352, 4095, false, false⟩ ∧
        t.channel c = { s.channel c with req := .servo, pct := none } ∧ SameExcept s t (timerOf c) c) ∧
    (¬ s.Blocked c .servo → s.busEvents = .fail :: es →
      ∃ t, exec (.servoInit c) s = .next t ∧
        Ended s t [wrote (pscReg (timerOf c)) 351 .fail] es (responseWord .busError 0 0) ∧
        t.timer (timerOf c) = { s.timer (timerOf c) with pscUns := true } ∧
        t.channel c = { s.channel c with req := .unclaimed } ∧ SameExcept s t (timerOf c) c) ∧
    (¬ s.Blocked c .servo → s.busEvents = .ok :: .fail :: es →
      ∃ t, exec (.servoInit c) s = .next t ∧
        Ended s t [wrote (pscReg (timerOf c)) 351 .ok, wrote (arrReg (timerOf c)) 4095 .fail] es
          (responseWord .busError 1 0) ∧
        t.timer (timerOf c) = { s.timer (timerOf c) with psc := some 352, pscUns := false, arrUns := true } ∧
        t.channel c = { s.channel c with req := .unclaimed } ∧ SameExcept s t (timerOf c) c)

/-- R163: SERVO_ANGLE writes the count of the angle to the channel's pulse-width register; acknowledged, it keeps the clamped angle and
drops the standing percentage; failed, it changes the sync flag alone. -/
def Obligations.ServoAngleWritesCount : Prop :=
  ∀ (s : State) (c : Channel) (A : Operand) (es : List BusEvent),
    (s.busEvents = .ok :: es →
      ∃ t, exec (.servoAngle c A) s = .next t ∧
        Ended s t [wrote (pwReg c) (servoCount A.toInt) .ok] es
          (responseWord .ok 1 (BitVec.ofNat 48 (servoCount A.toInt))) ∧
        t.channel c = { s.channel c with
          pw := some (BitVec.ofNat 16 (servoCount A.toInt))
          pwUns := false
          angle := some (max (-23040) (min A.toInt 23040))
          pct := none } ∧ t.timers = s.timers ∧ SameExcept s t (timerOf c) c) ∧
    (s.busEvents = .fail :: es →
      ∃ t, exec (.servoAngle c A) s = .next t ∧
        Ended s t [wrote (pwReg c) (servoCount A.toInt) .fail] es (responseWord .busError 0 0) ∧
        t.channel c = { s.channel c with pwUns := true } ∧ t.timers = s.timers ∧ SameExcept s t (timerOf c) c)

/-- R164: GET_ANGLE answers UNSET before the first acknowledged SERVO_ANGLE, and otherwise the 48-bit two's-complement image of the
clamped angle. -/
def Obligations.GetAngleReadsClampedAngle : Prop :=
  ∀ (s : State) (c : Channel),
    ((s.channel c).angle = none → exec (.getAngle c) s = .next (s.answeredOnly .unset 0)) ∧
    ∀ a, (s.channel c).angle = some a →
      ∃ r : Operand, exec (.getAngle c) s = .next (s.answeredOnly .ok r) ∧ (r.toNat : Int) = a % 2 ^ 48

/-! ## Status family -/

/-- R180: GET_SYNC always answers OK, with `arr_uns` as bit 2, `psc_uns` as bit 1 and `pw_uns` as bit 0. -/
def Obligations.GetSyncReadsFlags : Prop :=
  ∀ (s : State) (c : Channel), ∃ r : Operand, exec (.getSync c) s = .next (s.answeredOnly .ok r) ∧
    r.toNat = (s.timer (timerOf c)).arrUns.toNat * 4 + (s.timer (timerOf c)).pscUns.toNat * 2 +
      (s.channel c).pwUns.toNat

/-! ## Frames -/

/-- R111, R113, R115, R141, R143, R164, R180: a getter changes nothing but the response it delivers and the phase that ends with it: every
register, flag, claim, device register and port is as before. -/
def Obligations.GettersLeaveEverything : Prop :=
  ∀ (c : Channel) (s t : State) (i : Instr),
    i = .getFreq c ∨ i = .getPeriod c ∨ i = .getPrescaler c ∨ i = .getPw c ∨ i = .getPwPct c ∨ i = .getAngle c ∨
      i = .getSync c →
    exec i s = .next t →
      ∃ r, t = { s with phase := .idle, responses := s.responses ++ [r] } ∧ responseWrites r = 0

/-- R140, R142, R163: SET_PW, SET_PW_PCT and SERVO_ANGLE, however their write ends but by a reset, leave every timer, every other channel,
the channel's claim, with SET_PW and SET_PW_PCT its angle, every device register but the channel's pulse-width register, and the
parameter. -/
def Obligations.PulseWidthFrame : Prop :=
  ∀ (c : Channel) (opd : Operand) (s t : State) (i : Instr),
    i = .setPw c opd ∨ i = .setPwPct c opd ∨ i = .servoAngle c opd → OnlyAnswers s.busEvents → exec i s = .next t →
      t.timers = s.timers ∧ (∀ c', c' ≠ c → t.channel c' = s.channel c') ∧
      (t.channel c).req = (s.channel c).req ∧
      (i ≠ .servoAngle c opd → (t.channel c).angle = (s.channel c).angle) ∧
      (∀ a, a ≠ (pwReg c).toNat → t.device.read a = s.device.read a) ∧
      t.conflictCheck = s.conflictCheck ∧ t.inbox = s.inbox

/-- R112, R114: SET_PERIOD and SET_PRESCALER, however their write ends but by a reset, leave every other timer, the other register of
their timer and its flag, every other channel, every register of their channel but its claim, every device register but the one
they write, and the parameter. -/
def Obligations.RawTimerWriteFrame : Prop :=
  ∀ (c : Channel) (n : Operand) (s t : State), OnlyAnswers s.busEvents →
    (exec (.setPeriod c n) s = .next t →
      SameExcept s t (timerOf c) c ∧ (t.timer (timerOf c)).psc = (s.timer (timerOf c)).psc ∧
      (t.timer (timerOf c)).pscUns = (s.timer (timerOf c)).pscUns ∧
      t.channel c = { s.channel c with req := (t.channel c).req } ∧
      (∀ a, a ≠ (arrReg (timerOf c)).toNat → t.device.read a = s.device.read a) ∧
      t.conflictCheck = s.conflictCheck ∧ t.inbox = s.inbox) ∧
    (exec (.setPrescaler c n) s = .next t →
      SameExcept s t (timerOf c) c ∧ (t.timer (timerOf c)).arr = (s.timer (timerOf c)).arr ∧
      (t.timer (timerOf c)).arrUns = (s.timer (timerOf c)).arrUns ∧
      t.channel c = { s.channel c with req := (t.channel c).req } ∧
      (∀ a, a ≠ (pscReg (timerOf c)).toNat → t.device.read a = s.device.read a) ∧
      t.conflictCheck = s.conflictCheck ∧ t.inbox = s.inbox)

/-- R107, R162: SET_FREQ and SERVO_INIT, however their writes end but by a reset, leave every other timer, every other channel, the
channel's angle, with SET_FREQ its percentage, with SERVO_INIT its width and flag, every device register but the two of the
timer and, with SET_FREQ, the channel's pulse-width register, and the parameter. -/
def Obligations.TimerProgrammingFrame : Prop :=
  ∀ (c : Channel) (F : Operand) (s t : State), OnlyAnswers s.busEvents →
    (exec (.setFreq c F) s = .next t →
      SameExcept s t (timerOf c) c ∧ (t.channel c).angle = (s.channel c).angle ∧
      (t.channel c).pct = (s.channel c).pct ∧
      (∀ a, a ≠ (pscReg (timerOf c)).toNat → a ≠ (arrReg (timerOf c)).toNat → a ≠ (pwReg c).toNat →
        t.device.read a = s.device.read a) ∧
      t.conflictCheck = s.conflictCheck ∧ t.inbox = s.inbox) ∧
    (exec (.servoInit c) s = .next t →
      SameExcept s t (timerOf c) c ∧ (t.channel c).angle = (s.channel c).angle ∧
      (t.channel c).pw = (s.channel c).pw ∧ (t.channel c).pwUns = (s.channel c).pwUns ∧
      (∀ a, a ≠ (pscReg (timerOf c)).toNat → a ≠ (arrReg (timerOf c)).toNat → t.device.read a = s.device.read a) ∧
      t.conflictCheck = s.conflictCheck ∧ t.inbox = s.inbox)

/-! ## The device's output -/

/-- R57 with 42_servo.md section 3, the specification's own inference: after an acknowledged SET_FREQ the group's output frequency is `CLOCK_HZ / (p * T)`; after an
acknowledged SERVO_INIT it is 72 000 000 / (352 * 4095) Hz, and a SERVO_ANGLE then gives a pulse of count * 352 / 72 000 000
seconds. -/
def Obligations.ProgrammedOutput : Prop :=
  (∀ (s : State) (c : Channel) (F : Operand) (r : Candidate) (es : List BusEvent),
    F ≠ 0 → resolve F.toNat = some r → ¬ s.Blocked c (.freq F) → (s.channel c).pct = none →
    s.busEvents = .ok :: .ok :: es →
      ∃ t, exec (.setFreq c F) s = .next t ∧ outputHz t.device (timerOf c) = some ((72000000 : ℚ) / (r.p * r.T))) ∧
  (∀ (s : State) (c : Channel) (A : Operand) (es : List BusEvent),
    ¬ s.Blocked c .servo → s.busEvents = .ok :: .ok :: .ok :: es →
      ∃ t u, exec (.servoInit c) s = .next t ∧ exec (.servoAngle c A) t = .next u ∧
        outputHz u.device (timerOf c) = some ((72000000 : ℚ) / (352 * 4095)) ∧
        pulseSeconds u.device c = some ((servoCount A.toInt : ℚ) * 352 / 72000000))

/-- R57 with 41_pulse_width.md's last rule and 70_reset_and_hazards.md section 3, the specification's own inference: when a sibling
reprograms the shared timer with SET_PERIOD, SET_FREQ or SERVO_INIT, acknowledged, a channel keeps all its registers, its count and
a standing percentage among them (which is not re-derived), and its duty fraction becomes `min(pw, T) / T` of the new period T, `pw`
being what its pulse-width register holds; SET_PRESCALER leaves the period, and the duty fraction with it. -/
def Obligations.SiblingDutyDrifts : Prop :=
  ∀ (s : State) (c c' : Channel) (w : RegValue) (es : List BusEvent),
    Sibling c c' → s.device.read (pwReg c').toNat = some w →
    (∀ n : Operand, 1 ≤ n.toNat → n.toNat ≤ 65535 → ¬ s.Blocked c .unclaimed → s.busEvents = .ok :: es →
      ∃ t, exec (.setPeriod c n) s = .next t ∧ t.channel c' = s.channel c' ∧
        dutyFraction t.device c' = some ((min w.toNat n.toNat : Nat) / (n.toNat : ℚ))) ∧
    (∀ (F : Operand) (r : Candidate), F ≠ 0 → resolve F.toNat = some r → ¬ s.Blocked c (.freq F) →
      ((s.channel c).pct = none ∧ s.busEvents = .ok :: .ok :: es ∨
        (s.channel c).pct.isSome ∧ s.busEvents = .ok :: .ok :: .ok :: es) →
      ∃ t, exec (.setFreq c F) s = .next t ∧ t.channel c' = s.channel c' ∧
        dutyFraction t.device c' = some ((min w.toNat r.T : Nat) / (r.T : ℚ))) ∧
    (¬ s.Blocked c .servo → s.busEvents = .ok :: .ok :: es →
      ∃ t, exec (.servoInit c) s = .next t ∧ t.channel c' = s.channel c' ∧
        dutyFraction t.device c' = some ((min w.toNat 4095 : Nat) / (4095 : ℚ))) ∧
    (∀ n : Operand, 1 ≤ n.toNat → n.toNat ≤ 65535 → ¬ s.Blocked c .unclaimed → s.busEvents = .ok :: es →
      ∃ t, exec (.setPrescaler c n) s = .next t ∧ t.channel c' = s.channel c' ∧
        dutyFraction t.device c' = dutyFraction s.device c')

/-! ## The answer bit -/

/-- R9, on `bus_ack`: the bit 1 is `OK` and the bit 0 is `FAIL`. The two bits are the two answers, and a SET_PW whose write is answered
with 1 has one acknowledged write and the status OK, with 0 none and BUS_ERROR. -/
def Obligations.BusAckBit : Prop :=
  (BusAnswer.ok.ack = 1 ∧ BusAnswer.fail.ack = 0 ∧ (∀ a : BusAnswer, BusAnswer.ofAck a.ack = a) ∧
    ∀ b, (BusAnswer.ofAck b).ack = b) ∧
  ∀ (s : State) (c : Channel) (v : Operand) (b : BitVec 1) (es : List BusEvent), s.busEvents = .acknowledged b :: es →
    ∃ t q r, exec (.setPw c v) s = .next t ∧ t.busLog = s.busLog ++ [⟨q, some (BusAnswer.ofAck b)⟩] ∧
      t.busEvents = es ∧ t.responses = s.responses ++ [r] ∧ (responseWrites r).toNat = b.toNat ∧
      (responseStatus r = if b = 1 then 0 else 3)
end

