-- ==== Sys2Proof/Laws/Memory.lean ====
section
/-! SUPPORT. The device register space: a read after a write, and every operation on it keeps the canonical form. -/

namespace Sys2Proof.Machine.Laws

open Sys2Proof.Machine

@[simp] theorem read_nil (a : Nat) : Memory.read [] a = none := rfl

theorem read_write_same (m : Memory) (a : Nat) (v : RegValue) : (m.write a v).read a = some v := by
  induction m with
  | nil => simp [Memory.write, Memory.read]
  | cons cell m ih =>
    obtain ⟨b, u⟩ := cell
    simp only [Memory.write]
    split
    · simp [Memory.read]
    · split
      · simp [Memory.read]
      · rename_i h; simp [Memory.read, h, ih]

theorem read_write_ne (m : Memory) {a b : Nat} (v : RegValue) (h : b ≠ a) : (m.write a v).read b = m.read b := by
  induction m with
  | nil => simp [Memory.write, Memory.read, h]
  | cons cell m ih =>
    obtain ⟨c, u⟩ := cell
    simp only [Memory.write]
    split
    · simp [Memory.read, h]
    · split
      · rename_i h'; subst h'; simp [Memory.read, h]
      · simp only [Memory.read, ih]

theorem read_forget_same (m : Memory) (a : Nat) : (m.forget a).read a = none := by
  induction m with
  | nil => rfl
  | cons cell m ih =>
    obtain ⟨b, u⟩ := cell
    simp only [Memory.forget, List.filter_cons] at ih ⊢
    split
    · rename_i h
      have h' : a ≠ b := by rintro rfl; simp at h
      simp [Memory.read, h', ih]
    · exact ih

theorem read_forget_ne (m : Memory) {a b : Nat} (h : b ≠ a) : (m.forget a).read b = m.read b := by
  induction m with
  | nil => rfl
  | cons cell m ih =>
    obtain ⟨c, u⟩ := cell
    simp only [Memory.forget, List.filter_cons] at ih ⊢
    split
    · simp only [Memory.read, ih]
    · rename_i h'
      have hc : c = a := by simpa using h'
      simp only [Memory.read, ih, hc, h, if_false]

@[simp] theorem read_write (m : Memory) (a : Nat) (v : RegValue) (b : Nat) :
    (m.write a v).read b = if a = b then some v else m.read b := by
  split
  · rename_i h; rw [h, read_write_same]
  · rename_i h; exact read_write_ne m v (Ne.symm h)

@[simp] theorem read_forget (m : Memory) (a b : Nat) :
    (m.forget a).read b = if a = b then none else m.read b := by
  split
  · rename_i h; rw [h, read_forget_same]
  · rename_i h; exact read_forget_ne m (Ne.symm h)

/-- What a later write says of a register hides what an earlier one says. -/
@[simp] theorem known_ite_else {a b : Nat} (x y z : Option RegValue) :
    (if a = b then x else if a = b then y else z) = if a = b then x else z := by
  split <;> rfl

/-- The bytes of a transaction give back its value: the device stores what was sent, high byte first (R53). -/
@[simp] theorem receive_wireBytes (m : Memory) (q : BusRequest) :
    m.receive q.wireBytes = m.write q.reg.toNat q.value := by
  have h : q.value.extractLsb' 8 8 ++ q.value.extractLsb' 0 8 = q.value := by
    ext i hi
    simp only [BitVec.getElem_append, BitVec.getElem_extractLsb']
    split
    · simp [BitVec.getLsbD_eq_getElem hi]
    · rename_i h8
      have : 8 + (i - 8) = i := by omega
      simp [this, BitVec.getLsbD_eq_getElem hi]
  simp only [Memory.receive, BusRequest.wireBytes]
  rw [h]

/-- The cells after a write are cells from before it and the cell written. -/
theorem mem_write {m : Memory} {a : Nat} {v : RegValue} {cell : Nat × RegValue} (h : cell ∈ m.write a v) :
    cell = (a, v) ∨ cell ∈ m := by
  induction m with
  | nil => left; simpa [Memory.write] using h
  | cons c m ih =>
    obtain ⟨b, u⟩ := c
    simp only [Memory.write] at h
    split at h
    · simpa using h
    · split at h
      · rcases List.mem_cons.1 h with h | h
        · exact .inl h
        · exact .inr (List.mem_cons_of_mem _ h)
      · rcases List.mem_cons.1 h with h | h
        · right; simp [h]
        · rcases ih h with h | h
          · exact .inl h
          · exact .inr (List.mem_cons_of_mem _ h)

theorem mem_forget {m : Memory} {a : Nat} {cell : Nat × RegValue} (h : cell ∈ m.forget a) : cell ∈ m :=
  (List.mem_filter.1 h).1

theorem wf_nil : Memory.wf [] := ⟨List.Pairwise.nil, by simp⟩

theorem wf_forget {m : Memory} (h : m.wf) (a : Nat) : (m.forget a).wf :=
  ⟨h.1.filter _, fun cell hc => h.2 cell (mem_forget hc)⟩

theorem wf_write {m : Memory} (h : m.wf) {a : Nat} (ha : a < 256) (v : RegValue) : (m.write a v).wf := by
  refine ⟨?_, fun cell hc => ?_⟩
  · obtain ⟨h, -⟩ := h
    induction m with
    | nil => simp [Memory.write]
    | cons c m ih =>
      obtain ⟨b, u⟩ := c
      obtain ⟨hb, hm⟩ := List.pairwise_cons.1 h
      simp only [Memory.write]
      split
      · rename_i hab
        refine List.pairwise_cons.2 ⟨fun d hd => ?_, h⟩
        rcases List.mem_cons.1 hd with rfl | hd
        · exact hab
        · exact Nat.lt_trans hab (hb d hd)
      · split
        · rename_i hab; subst hab
          exact List.pairwise_cons.2 ⟨hb, hm⟩
        · refine List.pairwise_cons.2 ⟨fun d hd => ?_, ih hm⟩
          rcases mem_write hd with rfl | hd
          · show b < a
            omega
          · exact hb d hd
  · rcases mem_write hc with rfl | hc
    · exact ha
    · exact h.2 cell hc

/-- Taking a transaction keeps the canonical form. -/
theorem wf_receive_wireBytes {m : Memory} (h : m.wf) (q : BusRequest) : (m.receive q.wireBytes).wf := by
  rw [receive_wireBytes]
  exact wf_write h q.reg.isLt _

theorem reset_device_wf (b : Bool) : (State.resetWith b).device.wf := wf_nil

end Sys2Proof.Machine.Laws
end

