-- ==== Sys2Proof/Laws/State.lean ====
section
/-! SUPPORT. One lemma per field of `State` and per update of it, and the registers of a timer and of a channel after an update
of one of them. -/

namespace Sys2Proof.Machine.Laws

open Sys2Proof.Machine

/-! ### `State.modTimer` -/

@[simp] theorem modTimer_timers (s : State) (t : TimerIndex) (f : TimerRegs → TimerRegs) :
    (s.modTimer t f).timers = s.timers.set t (f (s.timer t)) := rfl
@[simp] theorem modTimer_channels (s : State) (t : TimerIndex) (f : TimerRegs → TimerRegs) :
    (s.modTimer t f).channels = s.channels := rfl
@[simp] theorem modTimer_phase (s : State) (t : TimerIndex) (f : TimerRegs → TimerRegs) :
    (s.modTimer t f).phase = s.phase := rfl
@[simp] theorem modTimer_outstanding (s : State) (t : TimerIndex) (f : TimerRegs → TimerRegs) :
    (s.modTimer t f).outstanding = s.outstanding := rfl
@[simp] theorem modTimer_conflictCheck (s : State) (t : TimerIndex) (f : TimerRegs → TimerRegs) :
    (s.modTimer t f).conflictCheck = s.conflictCheck := rfl
@[simp] theorem modTimer_device (s : State) (t : TimerIndex) (f : TimerRegs → TimerRegs) :
    (s.modTimer t f).device = s.device := rfl
@[simp] theorem modTimer_inbox (s : State) (t : TimerIndex) (f : TimerRegs → TimerRegs) :
    (s.modTimer t f).inbox = s.inbox := rfl
@[simp] theorem modTimer_busEvents (s : State) (t : TimerIndex) (f : TimerRegs → TimerRegs) :
    (s.modTimer t f).busEvents = s.busEvents := rfl
@[simp] theorem modTimer_busLog (s : State) (t : TimerIndex) (f : TimerRegs → TimerRegs) :
    (s.modTimer t f).busLog = s.busLog := rfl
@[simp] theorem modTimer_responses (s : State) (t : TimerIndex) (f : TimerRegs → TimerRegs) :
    (s.modTimer t f).responses = s.responses := rfl

/-! ### `State.modChannel` -/

@[simp] theorem modChannel_timers (s : State) (c : Channel) (f : ChannelRegs → ChannelRegs) :
    (s.modChannel c f).timers = s.timers := rfl
@[simp] theorem modChannel_channels (s : State) (c : Channel) (f : ChannelRegs → ChannelRegs) :
    (s.modChannel c f).channels = s.channels.set c (f (s.channel c)) := rfl
@[simp] theorem modChannel_phase (s : State) (c : Channel) (f : ChannelRegs → ChannelRegs) :
    (s.modChannel c f).phase = s.phase := rfl
@[simp] theorem modChannel_outstanding (s : State) (c : Channel) (f : ChannelRegs → ChannelRegs) :
    (s.modChannel c f).outstanding = s.outstanding := rfl
@[simp] theorem modChannel_conflictCheck (s : State) (c : Channel) (f : ChannelRegs → ChannelRegs) :
    (s.modChannel c f).conflictCheck = s.conflictCheck := rfl
@[simp] theorem modChannel_device (s : State) (c : Channel) (f : ChannelRegs → ChannelRegs) :
    (s.modChannel c f).device = s.device := rfl
@[simp] theorem modChannel_inbox (s : State) (c : Channel) (f : ChannelRegs → ChannelRegs) :
    (s.modChannel c f).inbox = s.inbox := rfl
@[simp] theorem modChannel_busEvents (s : State) (c : Channel) (f : ChannelRegs → ChannelRegs) :
    (s.modChannel c f).busEvents = s.busEvents := rfl
@[simp] theorem modChannel_busLog (s : State) (c : Channel) (f : ChannelRegs → ChannelRegs) :
    (s.modChannel c f).busLog = s.busLog := rfl
@[simp] theorem modChannel_responses (s : State) (c : Channel) (f : ChannelRegs → ChannelRegs) :
    (s.modChannel c f).responses = s.responses := rfl

/-! ### `State.issue` -/

@[simp] theorem issue_timers (s : State) (q : BusRequest) :
    (s.issue q).timers = s.timers := rfl
@[simp] theorem issue_channels (s : State) (q : BusRequest) :
    (s.issue q).channels = s.channels := rfl
@[simp] theorem issue_phase (s : State) (q : BusRequest) :
    (s.issue q).phase = s.phase := rfl
@[simp] theorem issue_outstanding (s : State) (q : BusRequest) :
    (s.issue q).outstanding = some q := rfl
@[simp] theorem issue_conflictCheck (s : State) (q : BusRequest) :
    (s.issue q).conflictCheck = s.conflictCheck := rfl
@[simp] theorem issue_device (s : State) (q : BusRequest) :
    (s.issue q).device = s.device.forget q.reg.toNat := rfl
@[simp] theorem issue_inbox (s : State) (q : BusRequest) :
    (s.issue q).inbox = s.inbox := rfl
@[simp] theorem issue_busEvents (s : State) (q : BusRequest) :
    (s.issue q).busEvents = s.busEvents := rfl
@[simp] theorem issue_busLog (s : State) (q : BusRequest) :
    (s.issue q).busLog = s.busLog := rfl
@[simp] theorem issue_responses (s : State) (q : BusRequest) :
    (s.issue q).responses = s.responses := rfl

/-! ### `State.deviceReset` -/

@[simp] theorem deviceReset_timers (s : State) :
    (s.deviceReset).timers = s.timers := rfl
@[simp] theorem deviceReset_channels (s : State) :
    (s.deviceReset).channels = s.channels := rfl
@[simp] theorem deviceReset_phase (s : State) :
    (s.deviceReset).phase = s.phase := rfl
@[simp] theorem deviceReset_outstanding (s : State) :
    (s.deviceReset).outstanding = s.outstanding := rfl
@[simp] theorem deviceReset_conflictCheck (s : State) :
    (s.deviceReset).conflictCheck = s.conflictCheck := rfl
@[simp] theorem deviceReset_device (s : State) :
    (s.deviceReset).device = [] := rfl
@[simp] theorem deviceReset_inbox (s : State) :
    (s.deviceReset).inbox = s.inbox := rfl
@[simp] theorem deviceReset_busEvents (s : State) :
    (s.deviceReset).busEvents = s.busEvents := rfl
@[simp] theorem deviceReset_busLog (s : State) :
    (s.deviceReset).busLog = s.busLog := rfl
@[simp] theorem deviceReset_responses (s : State) :
    (s.deviceReset).responses = s.responses := rfl

/-! ### `State.blockReset` -/

@[simp] theorem blockReset_timers (s : State) :
    (s.blockReset).timers = Vector.replicate 7 .reset := rfl
@[simp] theorem blockReset_channels (s : State) :
    (s.blockReset).channels = Vector.replicate 20 .reset := rfl
@[simp] theorem blockReset_phase (s : State) :
    (s.blockReset).phase = .idle := rfl
@[simp] theorem blockReset_outstanding (s : State) :
    (s.blockReset).outstanding = none := rfl
@[simp] theorem blockReset_conflictCheck (s : State) :
    (s.blockReset).conflictCheck = s.conflictCheck := rfl
@[simp] theorem blockReset_device (s : State) :
    (s.blockReset).device = s.device := rfl
@[simp] theorem blockReset_inbox (s : State) :
    (s.blockReset).inbox = s.inbox := rfl
@[simp] theorem blockReset_busEvents (s : State) :
    (s.blockReset).busEvents = s.busEvents := rfl
@[simp] theorem blockReset_busLog (s : State) :
    (s.blockReset).busLog = s.busLog ++ (s.outstanding.map fun q => ⟨q, none⟩).toList := rfl
@[simp] theorem blockReset_responses (s : State) :
    (s.blockReset).responses = s.responses := rfl

/-! ### `State.accept` -/

@[simp] theorem accept_timers (s : State) :
    (s.accept).timers = s.timers := rfl
@[simp] theorem accept_channels (s : State) :
    (s.accept).channels = s.channels := rfl
@[simp] theorem accept_phase (s : State) :
    (s.accept).phase = .busy := rfl
@[simp] theorem accept_outstanding (s : State) :
    (s.accept).outstanding = s.outstanding := rfl
@[simp] theorem accept_conflictCheck (s : State) :
    (s.accept).conflictCheck = s.conflictCheck := rfl
@[simp] theorem accept_device (s : State) :
    (s.accept).device = s.device := rfl
@[simp] theorem accept_inbox (s : State) :
    (s.accept).inbox = s.inbox := rfl
@[simp] theorem accept_busEvents (s : State) :
    (s.accept).busEvents = s.busEvents := rfl
@[simp] theorem accept_busLog (s : State) :
    (s.accept).busLog = s.busLog := rfl
@[simp] theorem accept_responses (s : State) :
    (s.accept).responses = s.responses := rfl

/-! ### `State.offer` -/

@[simp] theorem offer_timers (s : State) (w : CommandWord) :
    (s.offer w).timers = s.timers := rfl
@[simp] theorem offer_channels (s : State) (w : CommandWord) :
    (s.offer w).channels = s.channels := rfl
@[simp] theorem offer_phase (s : State) (w : CommandWord) :
    (s.offer w).phase = .idle := rfl
@[simp] theorem offer_outstanding (s : State) (w : CommandWord) :
    (s.offer w).outstanding = none := rfl
@[simp] theorem offer_conflictCheck (s : State) (w : CommandWord) :
    (s.offer w).conflictCheck = s.conflictCheck := rfl
@[simp] theorem offer_device (s : State) (w : CommandWord) :
    (s.offer w).device = s.device := rfl
@[simp] theorem offer_inbox (s : State) (w : CommandWord) :
    (s.offer w).inbox = .command w :: s.inbox := rfl
@[simp] theorem offer_busEvents (s : State) (w : CommandWord) :
    (s.offer w).busEvents = s.busEvents := rfl
@[simp] theorem offer_busLog (s : State) (w : CommandWord) :
    (s.offer w).busLog = s.busLog := rfl
@[simp] theorem offer_responses (s : State) (w : CommandWord) :
    (s.offer w).responses = s.responses := rfl

/-! ### `State.deliver` -/

@[simp] theorem deliver_timers (s : State) (r : ResponseWord) :
    (s.deliver r).timers = s.timers := rfl
@[simp] theorem deliver_channels (s : State) (r : ResponseWord) :
    (s.deliver r).channels = s.channels := rfl
@[simp] theorem deliver_phase (s : State) (r : ResponseWord) :
    (s.deliver r).phase = .idle := rfl
@[simp] theorem deliver_outstanding (s : State) (r : ResponseWord) :
    (s.deliver r).outstanding = s.outstanding := rfl
@[simp] theorem deliver_conflictCheck (s : State) (r : ResponseWord) :
    (s.deliver r).conflictCheck = s.conflictCheck := rfl
@[simp] theorem deliver_device (s : State) (r : ResponseWord) :
    (s.deliver r).device = s.device := rfl
@[simp] theorem deliver_inbox (s : State) (r : ResponseWord) :
    (s.deliver r).inbox = s.inbox := rfl
@[simp] theorem deliver_busEvents (s : State) (r : ResponseWord) :
    (s.deliver r).busEvents = s.busEvents := rfl
@[simp] theorem deliver_busLog (s : State) (r : ResponseWord) :
    (s.deliver r).busLog = s.busLog := rfl
@[simp] theorem deliver_responses (s : State) (r : ResponseWord) :
    (s.deliver r).responses = s.responses ++ [r] := rfl

/-! ### `State.eraseClaims` -/

@[simp] theorem eraseClaims_timers (s : State) :
    (s.eraseClaims).timers = s.timers := rfl
@[simp] theorem eraseClaims_channels (s : State) :
    (s.eraseClaims).channels = s.channels.map fun r => { r with req := .unclaimed } := rfl
@[simp] theorem eraseClaims_phase (s : State) :
    (s.eraseClaims).phase = s.phase := rfl
@[simp] theorem eraseClaims_outstanding (s : State) :
    (s.eraseClaims).outstanding = s.outstanding := rfl
@[simp] theorem eraseClaims_conflictCheck (s : State) :
    (s.eraseClaims).conflictCheck = s.conflictCheck := rfl
@[simp] theorem eraseClaims_device (s : State) :
    (s.eraseClaims).device = s.device := rfl
@[simp] theorem eraseClaims_inbox (s : State) :
    (s.eraseClaims).inbox = s.inbox := rfl
@[simp] theorem eraseClaims_busEvents (s : State) :
    (s.eraseClaims).busEvents = s.busEvents := rfl
@[simp] theorem eraseClaims_busLog (s : State) :
    (s.eraseClaims).busLog = s.busLog := rfl
@[simp] theorem eraseClaims_responses (s : State) :
    (s.eraseClaims).responses = s.responses := rfl

/-! ### `State.answered` -/

@[simp] theorem answered_timers (s : State) (q : BusRequest) (a : BusAnswer) (es : List BusEvent) :
    (s.answered q a es).timers = s.timers := rfl
@[simp] theorem answered_channels (s : State) (q : BusRequest) (a : BusAnswer) (es : List BusEvent) :
    (s.answered q a es).channels = s.channels := rfl
@[simp] theorem answered_phase (s : State) (q : BusRequest) (a : BusAnswer) (es : List BusEvent) :
    (s.answered q a es).phase = s.phase := rfl
@[simp] theorem answered_outstanding (s : State) (q : BusRequest) (a : BusAnswer) (es : List BusEvent) :
    (s.answered q a es).outstanding = none := rfl
@[simp] theorem answered_conflictCheck (s : State) (q : BusRequest) (a : BusAnswer) (es : List BusEvent) :
    (s.answered q a es).conflictCheck = s.conflictCheck := rfl
@[simp] theorem answered_ok_device (s : State) (q : BusRequest) (es : List BusEvent) :
    (s.answered q .ok es).device = s.device.receive q.wireBytes := rfl
@[simp] theorem answered_fail_device (s : State) (q : BusRequest) (es : List BusEvent) :
    (s.answered q .fail es).device = s.device := rfl
@[simp] theorem answered_inbox (s : State) (q : BusRequest) (a : BusAnswer) (es : List BusEvent) :
    (s.answered q a es).inbox = s.inbox := rfl
@[simp] theorem answered_busEvents (s : State) (q : BusRequest) (a : BusAnswer) (es : List BusEvent) :
    (s.answered q a es).busEvents = es := rfl
@[simp] theorem answered_busLog (s : State) (q : BusRequest) (a : BusAnswer) (es : List BusEvent) :
    (s.answered q a es).busLog = s.busLog ++ [⟨q, some a⟩] := rfl
@[simp] theorem answered_responses (s : State) (q : BusRequest) (a : BusAnswer) (es : List BusEvent) :
    (s.answered q a es).responses = s.responses := rfl

@[simp] theorem setReq_eq (s : State) (c : Channel) (x : Claim) :
    s.setReq c x = s.modChannel c (fun r => { r with req := x }) := rfl

@[simp] theorem setPct_eq (s : State) (c : Channel) (x : Option Operand) :
    s.setPct c x = s.modChannel c (fun r => { r with pct := x }) := rfl

@[simp] theorem setAngle_eq (s : State) (c : Channel) (x : Int) :
    s.setAngle c x = s.modChannel c (fun r => { r with angle := some x }) := rfl

/-! ### Registers after an update

Written `(rfl)`, so that simp uses them as equations to rewrite with and leaves the kernel no large conversion to check. -/

theorem timer_of_timers_eq {s t : State} (h : t.timers = s.timers) (i : TimerIndex) : t.timer i = s.timer i := by
  simp only [State.timer, h]

theorem channel_of_channels_eq {s t : State} (h : t.channels = s.channels) (c : Channel) :
    t.channel c = s.channel c := by
  simp only [State.channel, h]

@[simp] theorem timer_modTimer_same (s : State) (t : TimerIndex) (f : TimerRegs → TimerRegs) :
    (s.modTimer t f).timer t = f (s.timer t) := by
  simp [State.timer, State.modTimer]

@[simp] theorem timer_modTimer_ne (s : State) {t t' : TimerIndex} (f : TimerRegs → TimerRegs) (h : t' ≠ t) :
    (s.modTimer t f).timer t' = s.timer t' := by
  have h' : t.val ≠ t'.val := fun e => h (Fin.ext e.symm)
  simp [State.timer, State.modTimer, h']

@[simp] theorem timer_modChannel (s : State) (c : Channel) (f : ChannelRegs → ChannelRegs) (t : TimerIndex) :
    (s.modChannel c f).timer t = s.timer t := (rfl)

@[simp] theorem channel_modTimer (s : State) (t : TimerIndex) (f : TimerRegs → TimerRegs) (c : Channel) :
    (s.modTimer t f).channel c = s.channel c := (rfl)

@[simp] theorem channel_modChannel_same (s : State) (c : Channel) (f : ChannelRegs → ChannelRegs) :
    (s.modChannel c f).channel c = f (s.channel c) := by
  simp [State.channel, State.modChannel]

@[simp] theorem channel_modChannel_ne (s : State) {c c' : Channel} (f : ChannelRegs → ChannelRegs) (h : c' ≠ c) :
    (s.modChannel c f).channel c' = s.channel c' := by
  have h' : c.val ≠ c'.val := fun e => h (Fin.ext e.symm)
  simp [State.channel, State.modChannel, h']

@[simp] theorem timer_issue (s : State) (q : BusRequest) (t : TimerIndex) : (s.issue q).timer t = s.timer t := (rfl)

@[simp] theorem channel_issue (s : State) (q : BusRequest) (c : Channel) : (s.issue q).channel c = s.channel c := (rfl)

@[simp] theorem timer_answered (s : State) (q : BusRequest) (a : BusAnswer) (es : List BusEvent) (t : TimerIndex) :
    (s.answered q a es).timer t = s.timer t := (rfl)

@[simp] theorem channel_answered (s : State) (q : BusRequest) (a : BusAnswer) (es : List BusEvent) (c : Channel) :
    (s.answered q a es).channel c = s.channel c := (rfl)

@[simp] theorem timer_deviceReset (s : State) (t : TimerIndex) : s.deviceReset.timer t = s.timer t := (rfl)

@[simp] theorem channel_deviceReset (s : State) (c : Channel) : s.deviceReset.channel c = s.channel c := (rfl)

@[simp] theorem timer_accept (s : State) (t : TimerIndex) : s.accept.timer t = s.timer t := (rfl)

@[simp] theorem channel_accept (s : State) (c : Channel) : s.accept.channel c = s.channel c := (rfl)

@[simp] theorem timer_deliver (s : State) (r : ResponseWord) (t : TimerIndex) :
    (s.deliver r).timer t = s.timer t := (rfl)

@[simp] theorem channel_deliver (s : State) (r : ResponseWord) (c : Channel) :
    (s.deliver r).channel c = s.channel c := (rfl)

@[simp] theorem answeredOnly_eq (s : State) (st : Status) (r : Operand) :
    s.answeredOnly st r = s.deliver (responseWord st 0 r) := (rfl)

@[simp] theorem timer_blockReset (s : State) (t : TimerIndex) : s.blockReset.timer t = .reset := by
  simp [State.timer]

@[simp] theorem channel_blockReset (s : State) (c : Channel) : s.blockReset.channel c = .reset := by
  simp [State.channel]

@[simp] theorem timer_eraseClaims (s : State) (t : TimerIndex) : s.eraseClaims.timer t = s.timer t := (rfl)

@[simp] theorem channel_eraseClaims (s : State) (c : Channel) :
    s.eraseClaims.channel c = { s.channel c with req := .unclaimed } := by
  simp [State.channel]

/-- States that differ in a claim only are the same without their claims. -/
theorem eraseClaims_setReq (s : State) (c : Channel) (x : Claim) : (s.setReq c x).eraseClaims = s.eraseClaims := by
  have h : (s.setReq c x).eraseClaims.channels = s.eraseClaims.channels := by
    ext1 i hi
    have hc : ∀ u : State, u.eraseClaims.channels[i] = u.eraseClaims.channel ⟨i, hi⟩ := fun _ => rfl
    rw [hc, hc, channel_eraseClaims, channel_eraseClaims, setReq_eq]
    by_cases e : (⟨i, hi⟩ : Channel) = c
    · rw [e, channel_modChannel_same]
    · rw [channel_modChannel_ne _ _ e]
  simp only [State.eraseClaims] at h ⊢
  rw [h]
  rfl

end Sys2Proof.Machine.Laws
end

