-- ==== Sys2Proof/Laws/Ops.lean ====
section
/-! SUPPORT. The shared operations, each with what it can do said once: the bus write, the shadowed register write, timer
programming, the response. Proofs about commands cite these instead of unfolding the operations. -/

namespace Sys2Proof.Machine.Laws

open Sys2Proof.Machine

/-! ## Register addresses -/

theorem pwReg_mem (c : Channel) : pwReg c ∈ deviceRegisters := by revert c; decide

theorem pscReg_mem (t : TimerIndex) : pscReg t ∈ deviceRegisters := by revert t; decide

theorem arrReg_mem (t : TimerIndex) : arrReg t ∈ deviceRegisters := by revert t; decide

theorem pwReg_inj {c c' : Channel} : pwReg c = pwReg c' ↔ c = c' := by revert c c'; decide

theorem pscReg_inj {t t' : TimerIndex} : pscReg t = pscReg t' ↔ t = t' := by revert t t'; decide

theorem arrReg_inj {t t' : TimerIndex} : arrReg t = arrReg t' ↔ t = t' := by revert t t'; decide

@[simp] theorem pwReg_ne_pscReg (c : Channel) (t : TimerIndex) : pwReg c ≠ pscReg t := by revert c t; decide

@[simp] theorem pwReg_ne_arrReg (c : Channel) (t : TimerIndex) : pwReg c ≠ arrReg t := by revert c t; decide

@[simp] theorem pscReg_ne_arrReg (t t' : TimerIndex) : pscReg t ≠ arrReg t' := by revert t t'; decide

/-! ## The bus write -/

@[simp] theorem ofAck_ack (a : BusAnswer) : BusAnswer.ofAck a.ack = a := by cases a <;> rfl

@[simp] theorem ack_ofAck (b : BitVec 1) : (BusAnswer.ofAck b).ack = b := by revert b; decide

@[simp] theorem acknowledged_one : BusEvent.acknowledged 1 = .ok := rfl

@[simp] theorem acknowledged_zero : BusEvent.acknowledged 0 = .fail := rfl

/-- Everything that can happen to an outstanding request: the device may be reset under it, which changes nothing but the device;
then it is answered, never answered, abandoned by a reset, or answered `OK` with a reset right after. -/
theorem awaitAnswer_cases (q : BusRequest) (s : State) (es : List BusEvent) :
    ∃ u, (u = s ∨ (u = s.deviceReset ∧ .deviceReset ∈ es)) ∧
      ((∃ es', es' <:+ es ∧ .ok ∈ es ∧ awaitAnswer q s es = .answer .ok (u.answered q .ok es')) ∨
       (∃ es', es' <:+ es ∧ .fail ∈ es ∧ awaitAnswer q s es = .answer .fail (u.answered q .fail es')) ∨
       awaitAnswer q s es = .noAnswer { u with busEvents := [] } ∨
       (∃ es', es' <:+ es ∧ .reset ∈ es ∧ awaitAnswer q s es = .noAnswer { u with busEvents := es' }.blockReset) ∨
       (∃ es', es' <:+ es ∧ .okThenReset ∈ es ∧ awaitAnswer q s es = .noAnswer (u.answered q .ok es').blockReset)) := by
  induction es generalizing s with
  | nil => exact ⟨s, .inl rfl, .inr (.inr (.inl rfl))⟩
  | cons e es ih =>
    cases e with
    | ok => exact ⟨s, .inl rfl, .inl ⟨es, List.suffix_cons _ _, List.mem_cons_self, rfl⟩⟩
    | fail => exact ⟨s, .inl rfl, .inr (.inl ⟨es, List.suffix_cons _ _, List.mem_cons_self, rfl⟩)⟩
    | reset => exact ⟨s, .inl rfl, .inr (.inr (.inr (.inl ⟨es, List.suffix_cons _ _, List.mem_cons_self, rfl⟩)))⟩
    | okThenReset =>
      exact ⟨s, .inl rfl, .inr (.inr (.inr (.inr ⟨es, List.suffix_cons _ _, List.mem_cons_self, rfl⟩)))⟩
    | deviceReset =>
      obtain ⟨u, hu, h⟩ := ih s.deviceReset
      have hu' : u = s.deviceReset := by rcases hu with rfl | ⟨rfl, -⟩ <;> rfl
      refine ⟨u, .inr ⟨hu', List.mem_cons_self⟩, ?_⟩
      rcases h with ⟨es', hs, hm, h⟩ | ⟨es', hs, hm, h⟩ | h | ⟨es', hs, hm, h⟩ | ⟨es', hs, hm, h⟩
      · exact .inl ⟨es', hs.trans (List.suffix_cons _ _), List.mem_cons_of_mem _ hm, h⟩
      · exact .inr (.inl ⟨es', hs.trans (List.suffix_cons _ _), List.mem_cons_of_mem _ hm, h⟩)
      · exact .inr (.inr (.inl h))
      · exact .inr (.inr (.inr (.inl ⟨es', hs.trans (List.suffix_cons _ _), List.mem_cons_of_mem _ hm, h⟩)))
      · exact .inr (.inr (.inr (.inr ⟨es', hs.trans (List.suffix_cons _ _), List.mem_cons_of_mem _ hm, h⟩)))

/-- What a write leaves at the moment its answer arrives, the device not having been reset under it. -/
theorem busWrite_ok (reg : RegAddr) (v : RegValue) {s : State} {es : List BusEvent} (h : s.busEvents = .ok :: es) :
    busWrite reg v s = .answer .ok ((s.issue ⟨reg, v⟩).answered ⟨reg, v⟩ .ok es) := by
  simp [busWrite, h, awaitAnswer]

theorem busWrite_fail (reg : RegAddr) (v : RegValue) {s : State} {es : List BusEvent}
    (h : s.busEvents = .fail :: es) :
    busWrite reg v s = .answer .fail ((s.issue ⟨reg, v⟩).answered ⟨reg, v⟩ .fail es) := by
  simp [busWrite, h, awaitAnswer]

/-- A write is answered by the bit the Bus gives. -/
theorem busWrite_acknowledged (reg : RegAddr) (v : RegValue) {s : State} {b : BitVec 1} {es : List BusEvent}
    (h : s.busEvents = .acknowledged b :: es) :
    busWrite reg v s =
      .answer (BusAnswer.ofAck b) ((s.issue ⟨reg, v⟩).answered ⟨reg, v⟩ (BusAnswer.ofAck b) es) := by
  unfold BusEvent.acknowledged at h
  split at h <;> rename_i ha <;> rw [ha]
  · exact busWrite_ok reg v h
  · exact busWrite_fail reg v h

theorem busWrite_silent (reg : RegAddr) (v : RegValue) {s : State} (h : s.busEvents = []) :
    busWrite reg v s = .noAnswer (s.issue ⟨reg, v⟩) := by
  rw [busWrite, h, awaitAnswer]
  exact congrArg _ (show ({ s.issue ⟨reg, v⟩ with busEvents := [] } : State) = s.issue ⟨reg, v⟩ by
    rw [← h]; rfl)

theorem busWrite_reset (reg : RegAddr) (v : RegValue) {s : State} {es : List BusEvent}
    (h : s.busEvents = .reset :: es) :
    busWrite reg v s = .noAnswer { s.issue ⟨reg, v⟩ with busEvents := es }.blockReset := by
  simp [busWrite, h, awaitAnswer]

/-! ## Responses -/

@[simp] theorem respond_eq (st : Status) (w : Nat) (r : Operand) (s : State) :
    respond st w r s = .next (s.deliver (responseWord st w r)) := rfl

@[simp] theorem raise_eq (st : Status) (w : Nat) (s : State) :
    raise st w s = .next (s.deliver (responseWord st w 0)) := rfl

/-! ## Shadowed writes -/

section shadowedWrite

variable (reg : RegAddr) (v w : Nat) (ack fail : State → State) {s t : State} (k : State → Result) {es : List BusEvent}

theorem shadowedWrite_ok (h : s.busEvents = .ok :: es) :
    shadowedWrite reg v w ack fail s k =
      k (ack ((s.issue ⟨reg, BitVec.ofNat 16 v⟩).answered ⟨reg, BitVec.ofNat 16 v⟩ .ok es)) := by
  simp [shadowedWrite, busWrite_ok reg _ h]

theorem shadowedWrite_fail (h : s.busEvents = .fail :: es) :
    shadowedWrite reg v w ack fail s k =
      raise .busError w (fail ((s.issue ⟨reg, BitVec.ofNat 16 v⟩).answered ⟨reg, BitVec.ofNat 16 v⟩ .fail es)) := by
  simp [shadowedWrite, busWrite_fail reg _ h]

theorem shadowedWrite_silent (h : s.busEvents = []) :
    shadowedWrite reg v w ack fail s k = .next (s.issue ⟨reg, BitVec.ofNat 16 v⟩) := by
  simp [shadowedWrite, busWrite_silent reg _ h]

theorem shadowedWrite_reset (h : s.busEvents = .reset :: es) :
    shadowedWrite reg v w ack fail s k =
      .next { s.issue ⟨reg, BitVec.ofNat 16 v⟩ with busEvents := es }.blockReset := by
  simp [shadowedWrite, busWrite_reset reg _ h]

/-- Everything a shadowed write can do. With `u` the state in which its request stands answered or not: it goes on with `k`, ends
the command with BUS_ERROR, leaves PFR waiting, or is abandoned by a reset. -/
theorem shadowedWrite_cases :
    ∃ u, (u = s.issue ⟨reg, BitVec.ofNat 16 v⟩ ∨
        (u = (s.issue ⟨reg, BitVec.ofNat 16 v⟩).deviceReset ∧ .deviceReset ∈ s.busEvents)) ∧
      ((∃ es', es' <:+ s.busEvents ∧ .ok ∈ s.busEvents ∧
          shadowedWrite reg v w ack fail s k = k (ack (u.answered ⟨reg, BitVec.ofNat 16 v⟩ .ok es'))) ∨
       (∃ es', es' <:+ s.busEvents ∧ .fail ∈ s.busEvents ∧
          shadowedWrite reg v w ack fail s k =
            raise .busError w (fail (u.answered ⟨reg, BitVec.ofNat 16 v⟩ .fail es'))) ∨
       shadowedWrite reg v w ack fail s k = .next { u with busEvents := [] } ∨
       (∃ es', es' <:+ s.busEvents ∧ .reset ∈ s.busEvents ∧
          shadowedWrite reg v w ack fail s k = .next { u with busEvents := es' }.blockReset) ∨
       (∃ es', es' <:+ s.busEvents ∧ .okThenReset ∈ s.busEvents ∧
          shadowedWrite reg v w ack fail s k =
            .next (u.answered ⟨reg, BitVec.ofNat 16 v⟩ .ok es').blockReset)) := by
  obtain ⟨u, hu, h⟩ := awaitAnswer_cases ⟨reg, BitVec.ofNat 16 v⟩ (s.issue ⟨reg, BitVec.ofNat 16 v⟩) s.busEvents
  refine ⟨u, hu, ?_⟩
  rcases h with ⟨es', hs, hm, h⟩ | ⟨es', hs, hm, h⟩ | h | ⟨es', hs, hm, h⟩ | ⟨es', hs, hm, h⟩
  · exact .inl ⟨es', hs, hm, by simp [shadowedWrite, busWrite, h]⟩
  · exact .inr (.inl ⟨es', hs, hm, by simp [shadowedWrite, busWrite, h]⟩)
  · exact .inr (.inr (.inl (by simp [shadowedWrite, busWrite, h])))
  · exact .inr (.inr (.inr (.inl ⟨es', hs, hm, by simp [shadowedWrite, busWrite, h]⟩)))
  · exact .inr (.inr (.inr (.inr ⟨es', hs, hm, by simp [shadowedWrite, busWrite, h]⟩)))

/-- To show something of every state a shadowed write can end in, show it of its five ends. -/
theorem shadowedWrite_elim {P : State → Prop} (ht : shadowedWrite reg v w ack fail s k = .next t)
    (hk : ∀ u es', (u = s.issue ⟨reg, BitVec.ofNat 16 v⟩ ∨
        (u = (s.issue ⟨reg, BitVec.ofNat 16 v⟩).deviceReset ∧ .deviceReset ∈ s.busEvents)) →
      es' <:+ s.busEvents → k (ack (u.answered ⟨reg, BitVec.ofNat 16 v⟩ .ok es')) = .next t → P t)
    (hf : ∀ u es', (u = s.issue ⟨reg, BitVec.ofNat 16 v⟩ ∨
        (u = (s.issue ⟨reg, BitVec.ofNat 16 v⟩).deviceReset ∧ .deviceReset ∈ s.busEvents)) →
      es' <:+ s.busEvents →
      raise .busError w (fail (u.answered ⟨reg, BitVec.ofNat 16 v⟩ .fail es')) = .next t → P t)
    (hn : ∀ u, (u = s.issue ⟨reg, BitVec.ofNat 16 v⟩ ∨
        (u = (s.issue ⟨reg, BitVec.ofNat 16 v⟩).deviceReset ∧ .deviceReset ∈ s.busEvents)) →
      P { u with busEvents := [] })
    (hr : ∀ u es', (u = s.issue ⟨reg, BitVec.ofNat 16 v⟩ ∨
        (u = (s.issue ⟨reg, BitVec.ofNat 16 v⟩).deviceReset ∧ .deviceReset ∈ s.busEvents)) →
      es' <:+ s.busEvents → .reset ∈ s.busEvents → P { u with busEvents := es' }.blockReset)
    (ho : ∀ u es', (u = s.issue ⟨reg, BitVec.ofNat 16 v⟩ ∨
        (u = (s.issue ⟨reg, BitVec.ofNat 16 v⟩).deviceReset ∧ .deviceReset ∈ s.busEvents)) →
      es' <:+ s.busEvents → .okThenReset ∈ s.busEvents →
      P (u.answered ⟨reg, BitVec.ofNat 16 v⟩ .ok es').blockReset) : P t := by
  obtain ⟨u, hu, ⟨es', hs, -, h⟩ | ⟨es', hs, -, h⟩ | h | ⟨es', hs, hm, h⟩ | ⟨es', hs, hm, h⟩⟩ :=
    shadowedWrite_cases reg v w ack fail (s := s) k
  · exact hk u es' hu hs (h.symm.trans ht)
  · exact hf u es' hu hs (h.symm.trans ht)
  · rw [h] at ht; injection ht with ht; subst ht; exact hn u hu
  · rw [h] at ht; injection ht with ht; subst ht; exact hr u es' hu hs hm
  · rw [h] at ht; injection ht with ht; subst ht; exact ho u es' hu hs hm

/-- A shadowed write always answers a next state, if what follows it does. -/
theorem shadowedWrite_next (hk : ∀ s, ∃ t, k s = .next t) : ∃ t, shadowedWrite reg v w ack fail s k = .next t := by
  obtain ⟨u, -, ⟨es', -, -, h⟩ | ⟨es', -, -, h⟩ | h | ⟨es', -, -, h⟩ | ⟨es', -, -, h⟩⟩ :=
    shadowedWrite_cases reg v w ack fail (s := s) k
  · obtain ⟨t, ht⟩ := hk _; exact ⟨t, h.trans ht⟩
  · exact ⟨_, h⟩
  · exact ⟨_, h⟩
  · exact ⟨_, h⟩
  · exact ⟨_, h⟩

end shadowedWrite

/-! ## What an answered write leaves in the device -/

/-- After an `OK` the register holds the value written, after a `FAIL` nothing is known of it; every other register holds what it
held (R56). -/
theorem read_issue_answered (s : State) (q : BusRequest) (a : BusAnswer) (es : List BusEvent) (x : Nat) :
    ((s.issue q).answered q a es).device.read x =
      if q.reg.toNat = x then (if a = .ok then some q.value else none) else s.device.read x := by
  cases a <;> by_cases h : q.reg.toNat = x <;> simp [h]

/-! ## Conflict check -/

theorem conflict_eq_true (s : State) (c : Channel) (new : Claim) :
    conflict s c new = true ↔ s.conflictCheck = true ∧
      ∃ c' : Channel, Sibling c c' ∧ (s.channel c').req ≠ .unclaimed ∧ (s.channel c').req ≠ new := by
  simp [conflict]

theorem conflict_off {s : State} (h : s.conflictCheck = false) (c : Channel) (new : Claim) :
    conflict s c new = false := by
  simp [conflict, h]

end Sys2Proof.Machine.Laws
end

