-- ==== Sys2Proof/Laws/Words.lean ====
section
/-! SUPPORT. The fields of words: a command word and a response word taken apart and put together (30_encoding.md R70, R75). -/

namespace Sys2Proof.Machine.Laws

open Sys2Proof Sys2Proof.Machine

/-- The fields of the word of four fields are those fields. -/
theorem split_join (f : Fields) : splitWord (joinFields f) = f := by
  obtain ⟨op, ch, rsv, opd⟩ := f
  have h1 := op.isLt
  have h2 := ch.isLt
  have h3 := rsv.isLt
  have h4 := opd.isLt
  have e : (joinFields ⟨op, ch, rsv, opd⟩).toNat =
      ((op.toNat * 2 ^ 5 + ch.toNat) * 2 ^ 7 + rsv.toNat) * 2 ^ 48 + opd.toNat := by
    simp only [joinFields, BitVec.toNat_append]
    rw [← Nat.shiftLeft_add_eq_or_of_lt h2, ← Nat.shiftLeft_add_eq_or_of_lt h3, ← Nat.shiftLeft_add_eq_or_of_lt h4]
    simp only [Nat.shiftLeft_eq]
  simp only [splitWord, Fields.mk.injEq]
  refine ⟨?_, ?_, ?_, ?_⟩ <;> apply BitVec.eq_of_toNat_eq <;>
    simp only [BitVec.extractLsb'_toNat, Nat.shiftRight_eq_div_pow, e] <;> norm_num at * <;> omega

/-- A word is the word of its fields. -/
theorem join_split (w : CommandWord) : joinFields (splitWord w) = w := by
  simp only [splitWord, joinFields]
  ext i hi
  simp only [BitVec.getElem_append, BitVec.getElem_extractLsb']
  split
  · simp [BitVec.getLsbD_eq_getElem hi]
  · split
    · rw [show 48 + (i - 48) = i by omega, BitVec.getLsbD_eq_getElem hi]
    · split
      · rw [show 55 + (i - 48 - 7) = i by omega, BitVec.getLsbD_eq_getElem hi]
      · rw [show 60 + (i - 48 - 7 - 5) = i by omega, BitVec.getLsbD_eq_getElem hi]

/-- A response word as a number. -/
theorem responseWord_toNat (st : Status) (n : Nat) (r : Operand) (hn : n ≤ 3) :
    (responseWord st n r).toNat = st.code.toNat * 2 ^ 60 + n * 2 ^ 48 + r.toNat := by
  have hn' : (BitVec.ofNat 8 n).toNat = n := by simp; omega
  simp only [responseWord, BitVec.toNat_append]
  rw [← Nat.shiftLeft_add_eq_or_of_lt r.isLt, ← Nat.shiftLeft_add_eq_or_of_lt (BitVec.ofNat 8 n).isLt, hn']
  simp only [Nat.shiftLeft_eq]
  simp; omega

/-- The fields of a response are those it was made from. -/
theorem response_fields (st : Status) (n : Nat) (r : Operand) (hn : n ≤ 3) :
    responseStatus (responseWord st n r) = st.code ∧ responseReserved (responseWord st n r) = 0 ∧
    (responseWrites (responseWord st n r)).toNat = n ∧ responseResult (responseWord st n r) = r := by
  have e := responseWord_toNat st n r hn
  have h1 := st.code.isLt
  have h2 := r.isLt
  refine ⟨?_, ?_, ?_, ?_⟩ <;> try apply BitVec.eq_of_toNat_eq
  all_goals
    simp only [responseStatus, responseReserved, responseWrites, responseResult, BitVec.extractLsb'_toNat,
      Nat.shiftRight_eq_div_pow, e]
    try simp only [BitVec.toNat_zero, show (0 : BitVec 4) = 0#4 from rfl]
    norm_num at *
    omega

end Sys2Proof.Machine.Laws
end

