-- ==== Sys2Proof/Laws/Values.lean ====
section
/-! SUPPORT. The numbers: zero extension, rounding, the angle map and what the resolver answers, and the conflict check. -/

namespace Sys2Proof.Machine.Laws

open Sys2Proof Sys2Proof.Machine

theorem not_blocked {s : State} {c new} (h : ¬ s.Blocked c new) : conflict s c new = false := by
  by_contra h'
  exact h ((conflict_eq_true s c new).1 (by simpa using h'))

theorem blocked {s : State} {c new} (h : s.Blocked c new) : conflict s c new = true := (conflict_eq_true s c new).2 h

theorem zext48_eq {w : Nat} (h : w ≤ 65535) : zext48 w = BitVec.ofNat 48 w := by
  apply BitVec.eq_of_toNat_eq
  simp [zext48]; omega

theorem zext48_self {n : Operand} (h : n.toNat ≤ 65535) : zext48 n.toNat = n := by
  rw [zext48_eq h]; simp

theorem ofNat16_self (n : Operand) : BitVec.ofNat 16 n.toNat = n.setWidth 16 := by
  apply BitVec.eq_of_toNat_eq; simp

theorem rne_le (n d m : Nat) (hd : 0 < d) (h : n ≤ m * d) : rne n d ≤ m := by
  have h1 : n / d ≤ m := Nat.div_le_of_le_mul (by rw [Nat.mul_comm]; exact h)
  simp only [rne]
  have hdm := Nat.div_add_mod n d
  rcases Nat.lt_or_eq_of_le h1 with h2 | h2
  · split_ifs <;> omega
  · have : n % d = 0 := by
      rw [h2] at hdm
      have : d * m = m * d := Nat.mul_comm _ _
      omega
    rw [this]; split_ifs <;> omega

theorem clampAngle_eq (a : Int) : clampAngle a = max (-23040) (min a 23040) := by
  simp only [clampAngle, clamp, Config.angleMinDeg, Config.angleMaxDeg, Config.angleScale]
  norm_num
  split_ifs <;> omega

theorem servoCount_eq (A : Int) : servoCount A = rne ((500 * 46080 + (clampAngle A + 23040).toNat * 2000) * 4095) (46080 * 20000) := by
  simp [servoCount, Config.angleMinDeg, Config.angleMaxDeg, Config.angleScale, Config.servoMinUs, Config.servoMaxUs, Config.servoPeriod, Config.servoFrameUs]

theorem servoCount_le (A : Int) : servoCount A ≤ 512 := by
  rw [servoCount_eq]
  have := clampAngle_eq A
  apply rne_le _ _ _ (by decide)
  omega

theorem mem_window {F : Nat} {r : Candidate} (h : r ∈ window F) :
    1 ≤ r.p ∧ r.p ≤ 65535 ∧ 1 ≤ r.T ∧ r.T ≤ 65535 := by
  simp only [window, List.mem_filter, List.mem_map, Candidate.programmable, Bool.and_eq_true, decide_eq_true_eq] at h
  obtain ⟨⟨i, -, rfl⟩, ⟨h1, h2⟩, h3⟩ := h
  refine ⟨?_, h3, h1, h2⟩
  simp only [candidate, firstDivider]
  omega

theorem foldl_keepBest_mem (F : Nat) (l : List Candidate) (b : Option Candidate) (r : Candidate)
    (h : l.foldl (keepBest F) b = some r) : r ∈ l ∨ b = some r := by
  induction l generalizing b with
  | nil => exact .inr h
  | cons c l ih =>
    rcases ih _ h with h | h
    · exact .inl (List.mem_cons_of_mem _ h)
    · cases b with
      | none => simp [keepBest] at h; simp [h]
      | some b =>
        simp only [keepBest] at h
        split at h <;> simp_all

theorem resolve_mem {F : Nat} {r : Candidate} (h : resolve F = some r) : r ∈ window F := by
  rcases foldl_keepBest_mem F _ _ _ h with h | h
  · exact h
  · cases h

theorem resolve_bounds {F : Nat} {r : Candidate} (h : resolve F = some r) :
    1 ≤ r.p ∧ r.p ≤ 65535 ∧ 1 ≤ r.T ∧ r.T ≤ 65535 := mem_window (resolve_mem h)

theorem freqOperand_ne_zero {F : Operand} (h : F ≠ 0) : ¬ freqOperand F = 0 := by
  intro h'; apply h; apply BitVec.eq_of_toNat_eq; simpa [freqOperand] using h'

end Sys2Proof.Machine.Laws
end

