-- ==== Sys2Proof/Laws/Commands.lean ====
section
/-! SUPPORT. Every command seen the same way: it is answered at once, or it runs a short list of shadowed register writes one after
the other (00_scope.md R10, 40_timer.md R104). A proof about all commands is then one about that list. -/

namespace Sys2Proof.Machine.Laws

open Sys2Proof.Machine

/-! ## Neutral changes -/

/-- `f` changes nothing but the claims, percentages and angles of channels: no port, no shadow, no flag; and it keeps the channels'
registers legal (R21). -/
structure Neutral (f : State → State) : Prop where
  timers : ∀ s, (f s).timers = s.timers
  phase : ∀ s, (f s).phase = s.phase
  outstanding : ∀ s, (f s).outstanding = s.outstanding
  conflictCheck : ∀ s, (f s).conflictCheck = s.conflictCheck
  device : ∀ s, (f s).device = s.device
  inbox : ∀ s, (f s).inbox = s.inbox
  busEvents : ∀ s, (f s).busEvents = s.busEvents
  busLog : ∀ s, (f s).busLog = s.busLog
  responses : ∀ s, (f s).responses = s.responses
  pw : ∀ s c, ((f s).channel c).pw = (s.channel c).pw
  pwUns : ∀ s c, ((f s).channel c).pwUns = (s.channel c).pwUns
  legal : ∀ s, (∀ c, (s.channel c).Legal) → ∀ c, ((f s).channel c).Legal

theorem Neutral.timer {f : State → State} (h : Neutral f) (s : State) (t : TimerIndex) : (f s).timer t = s.timer t :=
  timer_of_timers_eq (h.timers s) t

theorem neutral_id : Neutral id := by constructor <;> intros <;> first | rfl | (rename_i h c; exact h c)

/-- A change of a channel that keeps its pulse width and flag is neutral. -/
theorem neutral_modChannel (c : Channel) (g : ChannelRegs → ChannelRegs) (hw : ∀ r, (g r).pw = r.pw)
    (hu : ∀ r, (g r).pwUns = r.pwUns) (hl : ∀ r, r.Legal → (g r).Legal) : Neutral (·.modChannel c g) where
  timers _ := rfl
  phase _ := rfl
  outstanding _ := rfl
  conflictCheck _ := rfl
  device _ := rfl
  inbox _ := rfl
  busEvents _ := rfl
  busLog _ := rfl
  responses _ := rfl
  pw s c' := by by_cases h : c' = c <;> [(subst h; simp [hw]); simp [h]]
  pwUns s c' := by by_cases h : c' = c <;> [(subst h; simp [hu]); simp [h]]
  legal s hs c' := by
    by_cases h : c' = c
    · subst h; rw [channel_modChannel_same]; exact hl _ (hs _)
    · rw [channel_modChannel_ne _ _ h]; exact hs _

theorem Neutral.comp {f g : State → State} (hf : Neutral f) (hg : Neutral g) : Neutral fun s => f (g s) where
  timers s := by rw [hf.timers, hg.timers]
  phase s := by rw [hf.phase, hg.phase]
  outstanding s := by rw [hf.outstanding, hg.outstanding]
  conflictCheck s := by rw [hf.conflictCheck, hg.conflictCheck]
  device s := by rw [hf.device, hg.device]
  inbox s := by rw [hf.inbox, hg.inbox]
  busEvents s := by rw [hf.busEvents, hg.busEvents]
  busLog s := by rw [hf.busLog, hg.busLog]
  responses s := by rw [hf.responses, hg.responses]
  pw s c := by rw [hf.pw, hg.pw]
  pwUns s c := by rw [hf.pwUns, hg.pwUns]
  legal s hs := hf.legal _ (hg.legal _ hs)

/-! ## The three kinds of register write -/

/-- A write PFR makes, by the register it is for: the divider, the period or the count. -/
inductive Kind where
  | psc (t : TimerIndex) (p : Nat)
  | arr (t : TimerIndex) (T : Nat)
  | pw (c : Channel) (v : Nat)

/-- The register written (R51). -/
def Kind.reg : Kind → RegAddr
  | .psc t _ => pscReg t
  | .arr t _ => arrReg t
  | .pw c _ => pwReg c

/-- The register image written (R51, R104). -/
def Kind.image : Kind → Nat
  | .psc _ p => p - 1
  | .arr _ T => T
  | .pw _ v => v

/-- What an `OK` does to the shadow and its flag (R24, R25). -/
def Kind.ack : Kind → State → State
  | .psc t p => (·.modTimer t (·.ackPsc p))
  | .arr t T => (·.modTimer t (·.ackArr T))
  | .pw c v => (·.modChannel c (·.ackPw v))

/-- What a `FAIL` does to the flag (R25). -/
def Kind.fail : Kind → State → State
  | .psc t _ => (·.modTimer t (·.failPsc))
  | .arr t _ => (·.modTimer t (·.failArr))
  | .pw c _ => (·.modChannel c (·.failPw))

/-- The value is one the register can hold and the shadow may hold (R21); a count may be any number,
since any 16-bit image of it is legal. -/
def Kind.InRange : Kind → Prop
  | .psc _ p => 1 ≤ p ∧ p ≤ 65535
  | .arr _ T => 1 ≤ T ∧ T ≤ 65535
  | .pw _ _ => True

/-- The request of a write. -/
def Kind.request (k : Kind) : BusRequest := ⟨k.reg, BitVec.ofNat 16 k.image⟩

theorem Kind.reg_mem (k : Kind) : k.reg ∈ deviceRegisters := by
  cases k <;> [exact pscReg_mem _; exact arrReg_mem _; exact pwReg_mem _]

/-- One write of a command: its kind, and the neutral change that follows its `OK`. -/
structure Write where
  kind : Kind
  andThen : State → State
  neutral : Neutral andThen
  inRange : kind.InRange

/-! ## A list of writes -/

/-- The writes of a command, one after the other, `n` having been acknowledged; then `k`. -/
def runWrites : List Write → Nat → State → (State → Result) → Result
  | [], _, s, k => k s
  | w :: ws, n, s, k =>
    shadowedWrite w.kind.reg w.kind.image n (fun u => w.andThen (w.kind.ack u)) w.kind.fail s fun u =>
      runWrites ws (n + 1) u k

/-- What every command is: answered at once, with no write planned, and with result 0 unless the status is OK; or a neutral change,
the planned writes, one to three to different registers, a neutral change, and the response OK with their number. -/
inductive Shape (i : Instr) (s : State) : Prop where
  | answered (st : Status) (r : Operand) (h : exec i s = .next (s.deliver (responseWord st 0 r)))
      (hst : st ≠ .busError) (hr : st ≠ .ok → r = 0) (hplan : plannedWrites s i = [])
  | writes (pre post : State → State) (ws : List Write) (r : Operand) (hpre : Neutral pre) (hpost : Neutral post)
      (hplan : ws.map (·.kind.request) = plannedWrites s i) (hlen : 1 ≤ ws.length ∧ ws.length ≤ 3) (hreg : ws.Pairwise (fun a b => a.kind.reg ≠ b.kind.reg))
      (h : exec i s = runWrites ws 0 (pre s) fun u => .next ((post u).deliver (responseWord .ok ws.length r)))

theorem neutral_setReq (c : Channel) (x : Claim) (hx : x ≠ .freq 0) : Neutral (·.setReq c x) :=
  neutral_modChannel c _ (fun _ => rfl) (fun _ => rfl) fun _ h => ⟨h.1, h.2.1, hx⟩

theorem neutral_setPct (c : Channel) (x : Option Operand) (hx : ∀ P ∈ x, P.toNat ≤ 6553600) : Neutral (·.setPct c x) :=
  neutral_modChannel c _ (fun _ => rfl) (fun _ => rfl) fun _ h => ⟨hx, h.2.1, h.2.2⟩

theorem neutral_setAngle (c : Channel) (a : Int) (ha : -23040 ≤ a ∧ a ≤ 23040) : Neutral (·.setAngle c a) :=
  neutral_modChannel c _ (fun _ => rfl) (fun _ => rfl) fun _ h => ⟨h.1, fun _ hb => by cases hb; exact ha, h.2.2⟩

/-- What follows a shadowed write matters only in the states the write can go on in: those differ from `s` in what the answer
changed. -/
theorem shadowedWrite_congr {reg : RegAddr} {v w : Nat} {ack fail : State → State} {s : State} {k k' : State → Result}
    (h : ∀ (u : State) es, u.timers = s.timers → u.channels = s.channels →
      k (ack (u.answered ⟨reg, BitVec.ofNat 16 v⟩ .ok es)) = k' (ack (u.answered ⟨reg, BitVec.ofNat 16 v⟩ .ok es))) :
    shadowedWrite reg v w ack fail s k = shadowedWrite reg v w ack fail s k' := by
  obtain ⟨u, hu, h'⟩ := awaitAnswer_cases ⟨reg, BitVec.ofNat 16 v⟩ (s.issue ⟨reg, BitVec.ofNat 16 v⟩) s.busEvents
  rcases h' with ⟨es', -, -, h'⟩ | ⟨es', -, -, h'⟩ | h' | ⟨es', -, -, h'⟩ | ⟨es', -, -, h'⟩ <;>
    simp only [shadowedWrite, busWrite, h']
  rcases hu with rfl | ⟨rfl, -⟩ <;> exact h _ _ rfl rfl

/-- The writes of SET_FREQ and SERVO_INIT (R104). -/
def timerWrites (c : Channel) (p T : Nat) (new : Claim) (hp : 1 ≤ p ∧ p ≤ 65535) (hT : 1 ≤ T ∧ T ≤ 65535)
    (hnew : new ≠ .freq 0) : List Write :=
  [⟨.psc (timerOf c) p, id, neutral_id, hp⟩, ⟨.arr (timerOf c) T, (·.setReq c new), neutral_setReq c _ hnew, hT⟩]

theorem timerWrites_requests (c : Channel) (p T : Nat) (new : Claim) (hp : 1 ≤ p ∧ p ≤ 65535) (hT : 1 ≤ T ∧ T ≤ 65535)
    (hnew : new ≠ .freq 0) : (timerWrites c p T new hp hT hnew).map (·.kind.request) =
      [request (pscReg (timerOf c)) (p - 1), request (arrReg (timerOf c)) T] := rfl

/-- SET_FREQ, once its checks are passed (R107): whether a percentage stands, and what the period is by then, is known before. -/
theorem programTimer_rederive (c : Channel) (p T : Nat) (new : Claim) (s : State) (k : Nat → State → Result) :
    (programTimer c p T new s fun s => rederivePw c s k) =
      programTimer c p T new s fun u =>
        (s.channel c).pct.elim (k 2 u) fun P => writePw c (pctCount P.toNat (BitVec.ofNat 16 T)) 2 u (k 3) := by
  simp only [programTimer, writePsc, writeArr]
  refine shadowedWrite_congr fun u es _ hc => ?_
  refine shadowedWrite_congr fun u' es' _ hc' => ?_
  have h1 : (u'.channel c).pct = (s.channel c).pct := by
    rw [channel_of_channels_eq hc', channel_modTimer, channel_answered, channel_of_channels_eq hc, setReq_eq,
      channel_modChannel_same]
  simp only [rederivePw, setReq_eq, channel_modChannel_same, channel_modTimer, channel_answered, h1, timer_modChannel,
    timer_modTimer_same, TimerRegs.ackArr]
  cases (s.channel c).pct <;> rfl

theorem blocked_of_conflict {s : State} {c : Channel} {new : Claim} (h : conflict s c new = true) : s.Blocked c new :=
  (conflict_eq_true s c new).1 h

theorem not_blocked_of_conflict {s : State} {c : Channel} {new : Claim} (h : conflict s c new = false) :
    ¬ s.Blocked c new := fun hb => by rw [blocked hb] at h; cases h

/-- The operands SET_PERIOD and SET_PRESCALER reject (R112, R114). -/
theorem uint_rejected_iff (n : Operand) : (uintOperand n < 1 ∨ uintOperand n > Config.regMax) ↔ n = 0 ∨ 65535 < n.toNat := by
  have h : n = 0 ↔ n.toNat = 0 := BitVec.toNat_inj.symm
  rw [h, uintOperand, Config.regMax]
  omega

/-! ## The planned writes of a command, by its checks -/

theorem plannedWrites_setFreq {s : State} {c : Channel} {F : Operand} {r : Candidate} (hF : F ≠ 0) (hr : resolve F.toNat = some r)
    (hb : ¬ s.Blocked c (.freq F)) : plannedWrites s (.setFreq c F) =
      [request (pscReg (timerOf c)) (r.p - 1), request (arrReg (timerOf c)) r.T] ++
        (s.channel c).pct.elim [] fun P => [request (pwReg c) (rne (P.toNat * r.T) (100 * 65536))] := by
  rw [plannedWrites, if_neg (not_or.2 ⟨hF, hb⟩), hr]
  cases h : (s.channel c).pct <;> simp

theorem plannedWrites_setFreq_rejected {s : State} {c : Channel} {F : Operand}
    (h : F = 0 ∨ resolve F.toNat = none ∨ s.Blocked c (.freq F)) : plannedWrites s (.setFreq c F) = [] := by
  rw [plannedWrites]
  split
  · rfl
  · rename_i hn
    obtain ⟨hF, hb⟩ := not_or.1 hn
    rw [(h.resolve_left hF).resolve_right hb]

theorem plannedWrites_setPeriod {s : State} {c : Channel} {n : Operand} (hn : ¬ (n = 0 ∨ 65535 < n.toNat))
    (hb : ¬ s.Blocked c .unclaimed) : plannedWrites s (.setPeriod c n) = [request (arrReg (timerOf c)) n.toNat] := by
  rw [plannedWrites, if_neg (or_assoc.not.1 (not_or.2 ⟨hn, hb⟩))]

theorem plannedWrites_setPeriod_rejected {s : State} {c : Channel} {n : Operand}
    (h : (n = 0 ∨ 65535 < n.toNat) ∨ s.Blocked c .unclaimed) : plannedWrites s (.setPeriod c n) = [] := by
  rw [plannedWrites, if_pos (or_assoc.1 h)]

theorem plannedWrites_setPrescaler {s : State} {c : Channel} {n : Operand} (hn : ¬ (n = 0 ∨ 65535 < n.toNat))
    (hb : ¬ s.Blocked c .unclaimed) :
    plannedWrites s (.setPrescaler c n) = [request (pscReg (timerOf c)) (n.toNat - 1)] := by
  rw [plannedWrites, if_neg (or_assoc.not.1 (not_or.2 ⟨hn, hb⟩))]

theorem plannedWrites_setPrescaler_rejected {s : State} {c : Channel} {n : Operand}
    (h : (n = 0 ∨ 65535 < n.toNat) ∨ s.Blocked c .unclaimed) : plannedWrites s (.setPrescaler c n) = [] := by
  rw [plannedWrites, if_pos (or_assoc.1 h)]

theorem plannedWrites_setPw (s : State) (c : Channel) (v : Operand) :
    plannedWrites s (.setPw c v) = [request (pwReg c) (clamp (sintOperand v) 0 Config.regMax).toNat] := by
  have h : (clamp (sintOperand v) 0 Config.regMax).toNat = (max 0 (min v.toInt 65535)).toNat := by
    simp only [clamp, sintOperand, Config.regMax]; split_ifs <;> omega
  rw [plannedWrites, h]

theorem plannedWrites_setPwPct {s : State} {c : Channel} {P : Operand} (h : ¬ 6553600 < P.toNat) :
    plannedWrites s (.setPwPct c P) = [request (pwReg c) (pctCount P.toNat (s.timer (timerOf c)).arr)] := by
  rw [plannedWrites, if_neg h]; rfl

theorem plannedWrites_setPwPct_rejected {s : State} {c : Channel} {P : Operand} (h : 6553600 < P.toNat) :
    plannedWrites s (.setPwPct c P) = [] := by rw [plannedWrites, if_pos h]

theorem plannedWrites_servoInit {s : State} {c : Channel} (h : ¬ s.Blocked c .servo) :
    plannedWrites s (.servoInit c) = [request (pscReg (timerOf c)) 351, request (arrReg (timerOf c)) 4095] := by
  rw [plannedWrites, if_neg h]

theorem plannedWrites_servoInit_rejected {s : State} {c : Channel} (h : s.Blocked c .servo) :
    plannedWrites s (.servoInit c) = [] := by rw [plannedWrites, if_pos h]

/-- Every command has one of the two shapes. -/
theorem exec_shape (i : Instr) (s : State) : Shape i s := by
  cases i with
  | setFreq c F =>
    by_cases hF : F = 0
    · subst hF
      exact .answered .rangeError 0 rfl (by simp) (by simp) (plannedWrites_setFreq_rejected (.inl rfl))
    have hF0 := freqOperand_ne_zero hF
    cases hr : resolve F.toNat with
    | none =>
      have hr' : resolve (freqOperand F) = none := hr
      exact .answered .rangeError 0 (by simp [exec, execSetFreq, hr']) (by simp) (by simp)
        (plannedWrites_setFreq_rejected (.inr (.inl hr)))
    | some r =>
      have hr' : resolve (freqOperand F) = some r := hr
      have hb := resolve_bounds hr
      have hF' : Claim.freq F ≠ .freq 0 := fun h => hF (by injection h)
      cases hc : conflict s c (.freq F) with
      | true =>
        exact .answered .conflictError 0 (by simp [exec, execSetFreq, hr', hF0, hc]) (by simp) (by simp)
          (plannedWrites_setFreq_rejected (.inr (.inr (blocked_of_conflict hc))))
      | false =>
        have hplan := plannedWrites_setFreq hF hr (not_blocked_of_conflict hc)
        have hT : r.T % 65536 = r.T := Nat.mod_eq_of_lt (by omega)
        have he := programTimer_rederive c r.p r.T (.freq F) s fun writes s => respond .ok writes (pairResult r.p r.T) s
        cases hp : (s.channel c).pct with
        | none =>
          rw [hp] at he hplan
          simp only [Option.elim] at he hplan
          refine .writes (·.setReq c .unclaimed) id (timerWrites c r.p r.T (.freq F) ⟨hb.1, hb.2.1⟩ hb.2.2 hF')
            (pairResult r.p r.T) (neutral_setReq c _ (by simp)) neutral_id
            (by rw [hplan, timerWrites_requests, List.append_nil]) (by simp [timerWrites])
            (by simp [timerWrites, Kind.reg]) ?_
          simp only [exec, execSetFreq, hr', hF0, hc, if_false, Bool.false_eq_true, he]
          rfl
        | some P =>
          rw [hp] at he hplan
          simp only [Option.elim] at he hplan
          refine .writes (·.setReq c .unclaimed) id (timerWrites c r.p r.T (.freq F) ⟨hb.1, hb.2.1⟩ hb.2.2 hF' ++
              [⟨.pw c (pctCount P.toNat (BitVec.ofNat 16 r.T)), id, neutral_id, trivial⟩])
            (pairResult r.p r.T) (neutral_setReq c _ (by simp)) neutral_id
            (by
              rw [hplan, List.map_append, timerWrites_requests]
              simp [Kind.request, Kind.reg, Kind.image, request, pctCount, Config.pctScale, hT])
            (by simp [timerWrites]) (by simp [timerWrites, Kind.reg, Ne.symm]) ?_
          simp only [exec, execSetFreq, hr', hF0, hc, if_false, Bool.false_eq_true, he]
          rfl
  | getFreq c =>
    cases hp : (s.timer (timerOf c)).psc with
    | none => exact .answered .unset 0 (by simp [exec, execGetFreq, hp]) (by simp) (by simp) rfl
    | some p => exact .answered .ok _ (by simp only [exec, execGetFreq, hp]; rfl) (by simp) (by simp) rfl
  | setPeriod c n =>
    by_cases hn : n = 0 ∨ 65535 < n.toNat
    · exact .answered .rangeError 0 (by simp only [exec, execSetPeriod, if_pos ((uint_rejected_iff n).2 hn)]; rfl) (by simp)
        (by simp) (plannedWrites_setPeriod_rejected (.inl hn))
    have hn' := (uint_rejected_iff n).not.2 hn
    cases hc : conflict s c .unclaimed with
    | true =>
      exact .answered .conflictError 0 (by simp only [exec, execSetPeriod, if_neg hn', hc]; rfl) (by simp) (by simp)
        (plannedWrites_setPeriod_rejected (.inr (blocked_of_conflict hc)))
    | false =>
      have hb : 1 ≤ uintOperand n ∧ uintOperand n ≤ 65535 := by simp only [Config.regMax] at hn'; omega
      exact .writes (·.setReq c .unclaimed) id [⟨.arr (timerOf c) (uintOperand n), id, neutral_id, hb⟩] _
        (neutral_setReq c _ (by simp)) neutral_id
        (plannedWrites_setPeriod hn (not_blocked_of_conflict hc)).symm (by simp) (by simp)
        (by simp only [exec, execSetPeriod, if_neg hn', hc, if_false, Bool.false_eq_true]; rfl)
  | getPeriod c => exact .answered .ok _ rfl (by simp) (by simp) rfl
  | setPrescaler c n =>
    by_cases hn : n = 0 ∨ 65535 < n.toNat
    · exact .answered .rangeError 0 (by simp only [exec, execSetPrescaler, if_pos ((uint_rejected_iff n).2 hn)]; rfl) (by simp)
        (by simp) (plannedWrites_setPrescaler_rejected (.inl hn))
    have hn' := (uint_rejected_iff n).not.2 hn
    cases hc : conflict s c .unclaimed with
    | true =>
      exact .answered .conflictError 0 (by simp only [exec, execSetPrescaler, if_neg hn', hc]; rfl) (by simp) (by simp)
        (plannedWrites_setPrescaler_rejected (.inr (blocked_of_conflict hc)))
    | false =>
      have hb : 1 ≤ uintOperand n ∧ uintOperand n ≤ 65535 := by simp only [Config.regMax] at hn'; omega
      exact .writes (·.setReq c .unclaimed) id [⟨.psc (timerOf c) (uintOperand n), id, neutral_id, hb⟩] _
        (neutral_setReq c _ (by simp)) neutral_id
        (plannedWrites_setPrescaler hn (not_blocked_of_conflict hc)).symm (by simp) (by simp)
        (by simp only [exec, execSetPrescaler, if_neg hn', hc, if_false, Bool.false_eq_true]; rfl)
  | getPrescaler c =>
    cases hp : (s.timer (timerOf c)).psc with
    | none => exact .answered .unset 0 (by simp [exec, execGetPrescaler, hp]) (by simp) (by simp) rfl
    | some p => exact .answered .ok _ (by simp only [exec, execGetPrescaler, hp]; rfl) (by simp) (by simp) rfl
  | setPw c v =>
    exact .writes id (·.setPct c none) [⟨.pw c _, id, neutral_id, trivial⟩] _ neutral_id (neutral_setPct c _ (by simp))
      (plannedWrites_setPw s c v).symm (by simp) (by simp) rfl
  | getPw c =>
    cases hp : (s.channel c).pw with
    | none => exact .answered .unset 0 (by simp [exec, execGetPw, hp]) (by simp) (by simp) rfl
    | some p => exact .answered .ok _ (by simp only [exec, execGetPw, hp]; rfl) (by simp) (by simp) rfl
  | setPwPct c P =>
    have hiff : pctOperand P > 100 * Config.pctScale ↔ 6553600 < P.toNat := by simp [pctOperand, Config.pctScale]
    by_cases hP : 6553600 < P.toNat
    · exact .answered .rangeError 0 (by simp only [exec, execSetPwPct, if_pos (hiff.2 hP)]; rfl) (by simp) (by simp)
        (plannedWrites_setPwPct_rejected hP)
    · exact .writes id (·.setPct c (some P)) [⟨.pw c _, id, neutral_id, trivial⟩] _ neutral_id
        (neutral_setPct c _ (by simpa using hP)) (plannedWrites_setPwPct hP).symm (by simp) (by simp)
        (by simp only [exec, execSetPwPct, if_neg (hiff.not.2 hP)]; rfl)
  | getPwPct c =>
    cases hp : (s.channel c).pct with
    | none => exact .answered .unset 0 (by simp [exec, execGetPwPct, hp]) (by simp) (by simp) rfl
    | some p => exact .answered .ok _ (by simp only [exec, execGetPwPct, hp]; rfl) (by simp) (by simp) rfl
  | servoInit c =>
    cases hc : conflict s c .servo with
    | true =>
      exact .answered .conflictError 0 (by simp [exec, execServoInit, hc]) (by simp) (by simp)
        (plannedWrites_servoInit_rejected (blocked_of_conflict hc))
    | false =>
      exact .writes (·.setReq c .unclaimed) (·.setPct c none)
        (timerWrites c Config.servoPrescaler Config.servoPeriod .servo (by decide) (by decide) (by simp)) _
        (neutral_setReq c _ (by simp)) (neutral_setPct c _ (by simp))
        (plannedWrites_servoInit (not_blocked_of_conflict hc)).symm (by simp [timerWrites])
        (by simp [timerWrites, Kind.reg])
        (by simp only [exec, execServoInit, hc, if_false, Bool.false_eq_true]; rfl)
  | servoAngle c A =>
    have ha : -23040 ≤ clampAngle (angleOperand A) ∧ clampAngle (angleOperand A) ≤ 23040 := by
      rw [clampAngle_eq]; omega
    exact .writes id (fun s => (s.setAngle c (clampAngle (angleOperand A))).setPct c none)
      [⟨.pw c _, id, neutral_id, trivial⟩] _ neutral_id
      ((neutral_setPct c none (by simp)).comp (neutral_setAngle c _ ha)) rfl (by simp) (by simp) rfl
  | getAngle c =>
    cases hp : (s.channel c).angle with
    | none => exact .answered .unset 0 (by simp [exec, execGetAngle, hp]) (by simp) (by simp) rfl
    | some p => exact .answered .ok _ (by simp only [exec, execGetAngle, hp]; rfl) (by simp) (by simp) rfl
  | getSync c => exact .answered .ok _ rfl (by simp) (by simp) rfl

/-- The state in which the request of a write stands, the device having been reset under it or not. -/
def Waiting (s : State) (q : BusRequest) (u : State) : Prop :=
  u = s.issue q ∨ (u = (s.issue q).deviceReset ∧ .deviceReset ∈ s.busEvents)

/-- To show something of every state a list of writes can end in: find what holds before each write (`Q`, of the writes left and
the number acknowledged), and show that it is kept by an acknowledged write, and gives the conclusion at each end. -/
theorem runWrites_elim {Q : List Write → Nat → State → Prop} {P : State → Prop} {k : State → Result} {t : State}
    (hend : ∀ n u, Q [] n u → k u = .next t → P t)
    (hack : ∀ w ws n s u es, Q (w :: ws) n s → Waiting s w.kind.request u → es <:+ s.busEvents →
      Q ws (n + 1) (w.andThen (w.kind.ack (u.answered w.kind.request .ok es))))
    (hfail : ∀ w ws n s u es, Q (w :: ws) n s → Waiting s w.kind.request u → es <:+ s.busEvents →
      P ((w.kind.fail (u.answered w.kind.request .fail es)).deliver (responseWord .busError n 0)))
    (hnone : ∀ w ws n s u, Q (w :: ws) n s → Waiting s w.kind.request u → P { u with busEvents := [] })
    (hreset : ∀ w ws n s u es, Q (w :: ws) n s → Waiting s w.kind.request u → es <:+ s.busEvents →
      .reset ∈ s.busEvents → P { u with busEvents := es }.blockReset)
    (hokReset : ∀ w ws n s u es, Q (w :: ws) n s → Waiting s w.kind.request u → es <:+ s.busEvents →
      .okThenReset ∈ s.busEvents → P (u.answered w.kind.request .ok es).blockReset)
    (ws : List Write) (n : Nat) (s : State) (hQ : Q ws n s) (ht : runWrites ws n s k = .next t) : P t := by
  induction ws generalizing n s with
  | nil => exact hend n s hQ ht
  | cons w ws ih =>
    refine shadowedWrite_elim _ _ _ _ _ _ ht (fun u es hu hs h => ?_) (fun u es hu hs h => ?_) (fun u hu => ?_)
      (fun u es hu hs hm => ?_) (fun u es hu hs hm => ?_)
    · exact ih _ _ (hack w ws n s u es hQ hu hs) h
    · rw [raise_eq] at h; injection h with h; subst h; exact hfail w ws n s u es hQ hu hs
    · exact hnone w ws n s u hQ hu
    · exact hreset w ws n s u es hQ hu hs hm
    · exact hokReset w ws n s u es hQ hu hs hm

end Sys2Proof.Machine.Laws
end

