-- ==== Sys2Proof/Laws/PerInstr.lean ====
section
/-! SUPPORT. The family of statements made once per command: the fields that encode it are legal ones (30_encoding.md R70, R77). -/

namespace Sys2Proof.Laws.LegalFields

/-- The command's fields pass every check of R71. -/
def Statement (i : Instr) : Prop := i.fields.wellFormed = true

/-- The fields of a command are legal if its opcode is, and its operand is 0 where the format asks for it. -/
theorem of_opcode (i : Instr) (hop : i.fields.legalOpcode = true) (hopd : i.fields.legalOperand = true) :
    Statement i := by
  have hc : i.fields.legalChannel = true := by
    have h := i.channel.isLt
    simp [Fields.legalChannel, Instr.fields, BitVec.toNat_ofNat]
    omega
  have hr : i.fields.legalReserved = true := by simp [Fields.legalReserved, Instr.fields]
  simp [Statement, Fields.wellFormed, hop, hopd, hc, hr]

theorem setFreq (c : Channel) (opd : Operand) : Statement (.setFreq c opd) := of_opcode _ rfl rfl

theorem getFreq (c : Channel) : Statement (.getFreq c) := of_opcode _ rfl rfl

theorem setPeriod (c : Channel) (opd : Operand) : Statement (.setPeriod c opd) := of_opcode _ rfl rfl

theorem getPeriod (c : Channel) : Statement (.getPeriod c) := of_opcode _ rfl rfl

theorem setPrescaler (c : Channel) (opd : Operand) : Statement (.setPrescaler c opd) := of_opcode _ rfl rfl

theorem getPrescaler (c : Channel) : Statement (.getPrescaler c) := of_opcode _ rfl rfl

theorem setPw (c : Channel) (opd : Operand) : Statement (.setPw c opd) := of_opcode _ rfl rfl

theorem getPw (c : Channel) : Statement (.getPw c) := of_opcode _ rfl rfl

theorem setPwPct (c : Channel) (opd : Operand) : Statement (.setPwPct c opd) := of_opcode _ rfl rfl

theorem getPwPct (c : Channel) : Statement (.getPwPct c) := of_opcode _ rfl rfl

theorem servoInit (c : Channel) : Statement (.servoInit c) := of_opcode _ rfl rfl

theorem servoAngle (c : Channel) (opd : Operand) : Statement (.servoAngle c opd) := of_opcode _ rfl rfl

theorem getAngle (c : Channel) : Statement (.getAngle c) := of_opcode _ rfl rfl

theorem getSync (c : Channel) : Statement (.getSync c) := of_opcode _ rfl rfl

end Sys2Proof.Laws.LegalFields
end

