-- ==== Sys2Proof/Tests/Slice0.lean ====
section
/-! SUPPORT. Tests: the checks of WellFormed refuse, words of 30_encoding.md and 95_test_vectors.md decode, one step of each command
gives what the vectors of 95_test_vectors.md say, and for every obligation with hypotheses a witness that meets them. The
expected values are the specification's, by vector number. -/

namespace Sys2Proof.Tests

open Sys2Proof Sys2Proof.Machine

/-! ## Helpers -/

/-- The outcome is a next state that passes `p`. -/
def ends (o : Result) (p : State → Bool) : Bool :=
  match o with
  | .next t => p t
  | _ => false

theorem next_of_ends {o : Result} {p : State → Bool} (h : ends o p = true) : ∃ t, o = .next t ∧ p t = true := by
  unfold ends at h
  split at h
  · exact ⟨_, rfl, h⟩
  · cases h

/-- An instance right after reset, on a Bus that will do `es`. -/
def start (check : Bool) (es : List BusEvent) : State := { State.resetWith check with busEvents := es }

/-- The same with the word `w` offered. -/
def offered (w : Nat) (es : List BusEvent) : State := (start false es).withFetchWord 64 w

/-- The step on the word `w` from reset, with the bus answers `es`, delivers the response `r` after the writes `ws`. -/
def answers (w : Nat) (es : List BusEvent) (r : ResponseWord) (ws : List (RegAddr × RegValue × BusAnswer)) : Bool :=
  ends (step (offered w es)) fun t =>
    t.responses == [r] && t.busLog == ws.map (fun x => ⟨⟨x.1, x.2.1⟩, some x.2.2⟩) && t.phase == .idle

/-- A channel of timer 0, and timer 0, as SERVO_INIT and a count of 307 leave them, with a standing percentage of 50. -/
def servoTimer : TimerRegs := ⟨some 352, 4095, false, false⟩
def servoChannel : ChannelRegs := ⟨some 307, some 0x320000, some (-23040), .servo, false⟩

/-- Channel `c` of timer 0 was set up for a servo, and the device holds what it was given. -/
def servoed (check : Bool) (c : Channel) (es : List BusEvent) : State :=
  { ((start check es).modTimer 0 fun _ => servoTimer).modChannel c (fun _ => servoChannel) with
    device := [(0x20 + c.val, 307), (0x40, 351), (0x44, 4095)] }

/-! ## WellFormed: each check refuses its ill-formed term -/

theorem test_wf_accepts : (⟨0x1, 19, 0, 0xFFFFFFFFFFFF⟩ : Fields).wellFormed = true := by decide

theorem test_wf_reserved_opcode_0 : (⟨0x0, 0, 0, 0⟩ : Fields).legalOpcode = false := by decide

theorem test_wf_reserved_opcode_F : (⟨0xF, 0, 0, 0⟩ : Fields).legalOpcode = false := by decide

theorem test_wf_no_such_channel : (⟨0x4, 20, 0, 0⟩ : Fields).legalChannel = false := by decide

theorem test_wf_reserved_bits : (⟨0x1, 0, 0x40, 0x320000⟩ : Fields).legalReserved = false := by decide

theorem test_wf_nonzero_operand : (⟨0xB, 0, 0, 0x800000000000⟩ : Fields).legalOperand = false := by decide

theorem test_wf_refuses_each : (⟨0x0, 0, 0, 0⟩ : Fields).wellFormed = false ∧ (⟨0x4, 20, 0, 0⟩ : Fields).wellFormed = false ∧
    (⟨0x1, 0, 0x40, 0x320000⟩ : Fields).wellFormed = false ∧
    (⟨0xB, 0, 0, 0x800000000000⟩ : Fields).wellFormed = false := by decide

/-! ## Decoding: words written out from R70 and R73 as op, ch, rsv, opd -/

theorem test_decode_setFreq : decode (0b0001_00001_0000000#16 ++ 0x000003E80000#48) = .ok (.setFreq 1 0x3E80000) := by decide

theorem test_decode_getFreq : decode (0b0010_10000_0000000#16 ++ 0#48) = .ok (.getFreq 16) := by decide

theorem test_decode_setPeriod : decode (0b0011_10001_0000000#16 ++ 0xFFFF#48) = .ok (.setPeriod 17 0xFFFF) := by decide

theorem test_decode_getPeriod : decode (0b0100_10011_0000000#16 ++ 0#48) = .ok (.getPeriod 19) := by decide

theorem test_decode_setPrescaler : decode (0b0101_10000_0000000#16 ++ 0x160#48) = .ok (.setPrescaler 16 0x160) := by decide

theorem test_decode_getPrescaler : decode (0b0110_00001_0000000#16 ++ 0#48) = .ok (.getPrescaler 1) := by decide

theorem test_decode_setPw : decode (0b0111_00011_0000000#16 ++ 0xFFFFFFFFFFFB#48) = .ok (.setPw 3 0xFFFFFFFFFFFB) := by decide

theorem test_decode_getPw : decode (0b1000_00011_0000000#16 ++ 0#48) = .ok (.getPw 3) := by decide

theorem test_decode_setPwPct : decode (0b1001_00010_0000000#16 ++ 0x320000#48) = .ok (.setPwPct 2 0x320000) := by decide

theorem test_decode_getPwPct : decode (0b1010_00010_0000000#16 ++ 0#48) = .ok (.getPwPct 2) := by decide

theorem test_decode_servoInit : decode (0b1011_00100_0000000#16 ++ 0#48) = .ok (.servoInit 4) := by decide

theorem test_decode_servoAngle :
    decode (0b1100_10011_0000000#16 ++ 0x5A00#48) = .ok (.servoAngle 19 0x5A00) := by decide

theorem test_decode_getAngle : decode (0b1101_00000_0000000#16 ++ 0#48) = .ok (.getAngle 0) := by decide

theorem test_decode_getSync : decode (0b1110_00101_0000000#16 ++ 0#48) = .ok (.getSync 5) := by decide

/-- V1.1, V1.2, V1.3, V1.5, V1.7: the words refused, by the first test each fails. -/
theorem test_decode_refuses : decode 0x0000000000000000 = .error .reservedOpcode ∧
    decode 0xF000000000000000 = .error .reservedOpcode ∧ decode 0x4A00000000000000 = .error .noSuchChannel ∧
    decode 0x4001000000000000 = .error .reservedBits ∧ decode 0x2000000000000001 = .error .nonzeroOperand := by decide

/-- V1.10: ILLEGAL for channel 20, whatever the operand. -/
theorem test_step_illegal : answers 0x1A00000000000000 [.ok, .ok, .ok] 0x4000000000000000 [] = true := by decide

/-! ## One step of each command -/

/-- V2.7: 5 Hz, a tie that goes to the smaller divider. -/
theorem test_setFreq_tie : answers 0x1600000000050000 [.ok, .ok] 0x000200000ED20ED3
    [(0x43, 3793, .ok), (0x47, 3795, .ok)] = true := by decide

/-- V2.17: the second write fails. -/
theorem test_setFreq_second_write_fails : ends (step (offered 0x1000000000640000 [.ok, .fail])) (fun t =>
    t.responses == [0x3001000000000000] && (t.timer 0 == ⟨some 848, 1, false, true⟩) &&
      ((t.channel 0).req == .unclaimed)) = true := by decide

/-- V2.22: GET_FREQ after SET_PRESCALER 1, 352, the period still 1. -/
theorem test_getFreq : ends (exec (.getFreq 1) ((start false []).modTimer 0 fun _ => ⟨some 352, 1, false, true⟩)) (fun t =>
    t.responses == [0x000000031F01745D]) = true := by decide

/-- V2.21: UNSET. -/
theorem test_getFreq_unset : answers 0x2380000000000000 [] 0x5000000000000000 [] = true := by decide

/-- V2.32. -/
theorem test_setPeriod : answers 0x388000000000FFFF [.ok] 0x000100000000FFFF [(0x54, 65535, .ok)] = true := by decide

/-- V2.40, with the claim of SERVO_INIT instead: refused by a sibling's claim. -/
theorem test_setPeriod_conflict : ends (exec (.setPeriod 1 100) (servoed true 0 [.ok])) (fun t =>
    t.responses == [0x2000000000000000] && t.busLog == []) = true := by decide

/-- V2.26. -/
theorem test_getPeriod : answers 0x4980000000000000 [] 0x0000000000000001 [] = true := by decide

/-- V2.37: the register holds the divider less one. -/
theorem test_setPrescaler : answers 0x598000000000FFFF [.ok] 0x000100000000FFFF [(0x52, 65534, .ok)] = true := by decide

/-- V2.38: out of range. -/
theorem test_setPrescaler_range : answers 0x5000000000010000 [.ok] 0x1000000000000000 [] = true := by decide

/-- V2.29: the divider, not the register image. -/
theorem test_getPrescaler : ends (exec (.getPrescaler 1) (servoed false 0 [])) (fun t =>
    t.responses == [0x0000000000000160]) = true := by decide

/-- V3.2: a negative width is clamped to 0. -/
theorem test_setPw_negative : answers 0x7180FFFFFFFFFFFB [.ok] 0x0001000000000000 [(0x23, 0, .ok)] = true := by decide

/-- V3.6: a width above the register's range is clamped to 65535. -/
theorem test_setPw_above : answers 0x7180000000010000 [.ok] 0x000100000000FFFF [(0x23, 65535, .ok)] = true := by decide

/-- V3.11: UNSET. -/
theorem test_getPw_unset : answers 0x8000000000000000 [] 0x5000000000000000 [] = true := by decide

/-- V3.15: half of a period of 4095 is a tie, and goes to the even count 2048. -/
theorem test_setPwPct_tie : ends (exec (.setPwPct 2 0x320000) (servoed false 2 [.ok])) (fun t =>
    t.responses == [0x0001000000000800] && (t.channel 2).pct == some 0x320000) = true := by decide

/-- V3.17: above 100 percent. -/
theorem test_setPwPct_range : answers 0x9100000000640001 [.ok] 0x1000000000000000 [] = true := by decide

/-- R143: the percentage last requested. -/
theorem test_getPwPct : ends (exec (.getPwPct 2) (servoed false 2 [])) (fun t =>
    t.responses == [0x0000000000320000]) = true := by decide

/-- V2.45 without the check: 351 and 4095. -/
theorem test_servoInit : answers 0xB200000000000000 [.ok, .ok] 0x0002000001600FFF
    [(0x41, 351, .ok), (0x45, 4095, .ok)] = true := by decide

set_option maxRecDepth 20000 in
/-- S3: -90 degrees is 102. -/
theorem test_servoAngle_min : ends (exec (.servoAngle 0 0xFFFFFFFFA600) (start false [.ok])) (fun t =>
    t.responses == [0x0001000000000066] && t.busLog == [⟨⟨0x20, 102⟩, some .ok⟩] &&
      (t.channel 0).angle == some (-23040)) = true := by decide

set_option maxRecDepth 20000 in
/-- S11: 45 degrees is a tie, and goes to the even count 410. -/
theorem test_servoAngle_tie : ends (exec (.servoAngle 0 0x2D00) (start false [.ok])) (fun t =>
    t.responses == [0x000100000000019A] && t.busLog == [⟨⟨0x20, 410⟩, some .ok⟩]) = true := by decide

/-- R164: -90 degrees as a 48-bit two's-complement image. -/
theorem test_getAngle : ends (exec (.getAngle 0) (servoed false 0 [])) (fun t =>
    t.responses == [0x0000FFFFFFFFA600]) = true := by decide

/-- R231, R232: all three flags are set after reset. -/
theorem test_getSync_reset : answers 0xE000000000000000 [] 0x0000000000000007 [] = true := by decide

/-- R180: the order of the flags. -/
theorem test_getSync_order : ends (exec (.getSync 0) ((start false []).modTimer 0 fun _ => ⟨none, 1, false, true⟩)) (fun t =>
    t.responses == [0x0000000000000005]) = true := by decide

/-- 40_timer.md, the range of the resolver, at its ends. -/
theorem test_resolver_ends : resolve 1098 = none ∧ resolve 1099 = some ⟨65525, 65525⟩ ∧
    resolve 4718592000000 = some ⟨1, 1⟩ ∧ resolve 4718592000001 = none := by decide

/-- R209: a Bus that never answers. -/
theorem test_silent_bus : ends (step (offered 0x7180000000000001 [])) (fun t =>
    t.phase == .busy && t.outstanding == some ⟨0x23, 1⟩ && t.responses == []) = true := by decide

/-! ## Witnesses: for each obligation with hypotheses, data that meet them

Each theorem is named after its obligation, with a suffix where it is for one clause of it. -/

theorem witness_EncodeOfDecode : decode 0xC980000000005A00 = .ok (.servoAngle 19 0x5A00) := by decide

theorem witness_DecodeChecksInOrder_opcode : (splitWord 0xFFFFFFFFFFFFFFFF).legalOpcode = false := by decide

theorem witness_DecodeChecksInOrder_channel : (splitWord 0x4A01000000000001).legalOpcode = true ∧
    (splitWord 0x4A01000000000001).legalChannel = false := by decide

theorem witness_DecodeChecksInOrder_reserved : (splitWord 0x4981000000000001).legalOpcode = true ∧
    (splitWord 0x4981000000000001).legalChannel = true ∧ (splitWord 0x4981000000000001).legalReserved = false := by decide

theorem witness_DecodeChecksInOrder_operand : (splitWord 0x4980000000000001).legalOpcode = true ∧
    (splitWord 0x4980000000000001).legalChannel = true ∧ (splitWord 0x4980000000000001).legalReserved = true ∧
    (splitWord 0x4980000000000001).legalOperand = false := by decide

theorem witness_DecodeChecksInOrder_wellFormed : (splitWord 0x4980000000000000).wellFormed = true := by decide

theorem witness_DecodeChecksInOrder_step : (offered 0x4A00000000000000 []).phase = .idle ∧
    (offered 0x4A00000000000000 []).inbox = .command 0x4A00000000000000 :: [] ∧
    decode 0x4A00000000000000 = .error .noSuchChannel := by decide

theorem witness_PseudoInstructions : (0 ≤ (0 : Int) ∧ (0 : Int) < 2 ^ 32) ∧ (0 ≤ (4294967295 : Int) ∧ (4294967295 : Int) < 2 ^ 32) ∧
    ((-1 : Int) < 0) ∧ (2 ^ 32 ≤ (4294967296 : Int)) ∧ (-2 ^ 39 ≤ (-549755813888 : Int) ∧ (-549755813888 : Int) < 2 ^ 39) ∧
    (-2 ^ 39 ≤ (549755813887 : Int) ∧ (549755813887 : Int) < 2 ^ 39) ∧ ((-549755813889 : Int) < -2 ^ 39) ∧
    (2 ^ 39 ≤ (549755813888 : Int)) := by decide

theorem witness_ResponseWordFields : (3 : Nat) ≤ 3 ∧ (65535 : Nat) ≤ 65535 := by decide

theorem witness_StepRunsDecodedCommand_a : (offered 0x7180000000000001 []).phase = .idle ∧
    (offered 0x7180000000000001 []).inbox = .command 0x7180000000000001 :: [] ∧
    decode 0x7180000000000001 = .ok (.setPw 3 1) := by decide

theorem witness_StepRunsDecodedCommand_b : decodeTableWord 64 0x7180000000000001 = some (.setPw 3 1) := by decide

theorem witness_StopsOnlyWhileBusy : ({ State.reset with phase := .busy } : State).phase = .busy ∧ State.reset.phase = .idle ∧
    State.reset.inbox = [] := by decide

theorem witness_SilentBusLeavesPfrBusy : (offered 0x7180000000000001 []).phase = .idle ∧
    (offered 0x7180000000000001 []).outstanding = none ∧
    (offered 0x7180000000000001 []).inbox = .command 0x7180000000000001 :: [] ∧
    decode 0x7180000000000001 = .ok (.setPw 3 1) ∧ OnlyAnswers (offered 0x7180000000000001 []).busEvents ∧
    (offered 0x7180000000000001 []).busEvents = List.replicate 0 .ok ∧
    (plannedWrites (offered 0x7180000000000001 []) (.setPw 3 1))[0]? = some ⟨0x23, 1⟩ := by decide

/-- SET_FREQ of 50 Hz on a channel with a standing percentage of 50, whose third write gets no answer; and SERVO_INIT, whose
second does not. -/
theorem witness_SilentBusLeavesPfrBusy_later : decode 0x1000000000320000 = .ok (.setFreq 0 0x320000) ∧
    ((servoed false 0 [.ok, .ok]).withFetchWord 64 0x1000000000320000).busEvents = List.replicate 2 .ok ∧
    (plannedWrites ((servoed false 0 [.ok, .ok]).withFetchWord 64 0x1000000000320000) (.setFreq 0 0x320000))[2]? =
      some ⟨0x20, 600⟩ ∧
    decode 0xB200000000000000 = .ok (.servoInit 4) ∧ OnlyAnswers (offered 0xB200000000000000 [.ok]).busEvents ∧
    (offered 0xB200000000000000 [.ok]).busEvents = List.replicate 1 .ok ∧
    (plannedWrites (offered 0xB200000000000000 [.ok]) (.servoInit 4))[1]? = some ⟨0x45, 4095⟩ := by decide

/-- The other commands that write, with operands at the ends of their ranges. -/
theorem witness_SilentBusLeavesPfrBusy_others :
    (plannedWrites (start false []) (.setPeriod 5 65535))[0]? = some ⟨0x45, 65535⟩ ∧
    (plannedWrites (start false []) (.setPrescaler 16 1))[0]? = some ⟨0x50, 0⟩ ∧
    (plannedWrites (servoed false 0 []) (.setPwPct 1 6553600))[0]? = some ⟨0x21, 4095⟩ ∧
    ((plannedWrites (start false []) (.servoAngle 19 0x5A00))[0]?).isSome :=
  ⟨by decide, by decide, by decide, rfl⟩

theorem witness_AnsweringBusGivesOneResponse : OnlyAnswers (start true [.ok, .fail, .ok]).busEvents ∧
    3 ≤ (start true [.ok, .fail, .ok]).busEvents.length ∧ (start true [.ok, .fail, .ok]).outstanding = none := by decide

theorem witness_ResetRegisterValues : State.resetWith true = State.resetWith true ∧
    (servoed true 0 []).blockReset = (servoed true 0 []).blockReset := by decide

theorem witness_ResetsReachOneSideOnly : State.reset.phase = .idle ∧ State.reset.outstanding = none ∧
    ({ State.reset with inbox := [.reset] } : State).inbox = .reset :: [] ∧
    ({ State.reset with inbox := [.deviceReset] } : State).inbox = .deviceReset :: [] := by decide

theorem witness_ResetWhileBusyAbandons_a : ∃ t, (start true [.ok, .reset]).outstanding = none ∧
    exec (.servoInit 4) (start true [.ok, .reset]) = .next t ∧ t.outstanding = none ∧
    t.responses = (start true [.ok, .reset]).responses := by
  obtain ⟨t, h, ht⟩ := next_of_ends (o := exec (.servoInit 4) (start true [.ok, .reset]))
    (p := fun t => t.outstanding == none && t.responses == []) (by decide)
  rw [Bool.and_eq_true, beq_iff_eq, beq_iff_eq] at ht
  exact ⟨t, rfl, h, ht.1, ht.2⟩

theorem witness_ResetWhileBusyAbandons_b : (start true [.reset]).busEvents = .reset :: [] ∧
    (start true [.okThenReset]).busEvents = .okThenReset :: [] := by decide

theorem witness_ResetWhileBusyAbandons_c : State.reset.phase = .idle ∧ State.reset.outstanding = none ∧
    ({ State.reset with inbox := [.commandThenReset 0x4980000000000000] } : State).inbox =
      .commandThenReset 0x4980000000000000 :: [] := by decide

/-- A legal state in which shadows, claims and device hold something, with SET_PERIOD 2, 100 offered. -/
def busyBench : State := (servoed true 2 [.ok]).offer 0x3100000000000064

theorem busyBench_steps : ∃ t, step busyBench = .next t := by
  obtain ⟨t, h, -⟩ := next_of_ends (o := step busyBench) (p := fun _ => true) (by decide)
  exact ⟨t, h⟩

theorem busyBench_timer : ∀ t, busyBench.timer t = servoTimer ∨ busyBench.timer t = .reset := by decide

theorem busyBench_channel : ∀ c, busyBench.channel c = servoChannel ∨ busyBench.channel c = .reset := by decide

theorem busyBench_legal : busyBench.Legal := by
  refine ⟨fun t => ?_, fun c => ?_, by decide, by decide, by decide, ?_, by decide⟩
  · rcases busyBench_timer t with h | h <;> rw [h] <;> simp [TimerRegs.Legal, servoTimer, TimerRegs.reset]
  · rcases busyBench_channel c with h | h <;> rw [h] <;> simp [ChannelRegs.Legal, servoChannel, ChannelRegs.reset]
  · intro q hq; cases hq

theorem witness_StepKeepsLegalState : ∃ t, busyBench.Legal ∧ step busyBench = .next t :=
  busyBench_steps.imp fun _ h => ⟨busyBench_legal, h⟩

theorem witness_StepKeepsShadowsSynced :
    ∃ t, busyBench.NoDeviceReset ∧ busyBench.Legal ∧ busyBench.Synced ∧ step busyBench = .next t :=
  busyBench_steps.imp fun _ h => ⟨by decide, busyBench_legal, ⟨by decide, by decide, by decide⟩, h⟩

theorem witness_StepKeepsClaimsTrue : ∃ t, busyBench.ClaimsHold ∧ step busyBench = .next t := by
  refine busyBench_steps.imp fun t h => ⟨fun _ c hc => ?_, h⟩
  have h2 : c = 2 := by
    revert hc
    revert c
    decide
  subst h2
  exact ⟨⟨352, 4095⟩, by decide, by decide, by decide⟩

/-- Two channels of timer 0 hold the claim SERVO. -/
def twoClaims : State := (servoed true 0 []).modChannel 1 fun _ => servoChannel

theorem witness_EqualClaimsLockTheirGroup : twoClaims.conflictCheck = true ∧ (0 : Channel) ≠ 1 ∧ timerOf 0 = timerOf 1 ∧
    (twoClaims.channel 0).req ≠ .unclaimed ∧ (twoClaims.channel 1).req = (twoClaims.channel 0).req ∧
    timerOf (Instr.setPeriod 3 100).channel = timerOf 0 ∧ claimLeft (.setPeriod 3 100) = some .unclaimed ∧
    Claim.unclaimed ≠ (twoClaims.channel 0).req := by decide

theorem witness_ClaimsUnobservableWithoutCheck : ∃ t, (servoed false 0 []).conflictCheck = false ∧
    (servoed false 0 []).eraseClaims = ((servoed false 0 []).setReq 0 .unclaimed).eraseClaims ∧
    step (servoed false 0 []) = .next t := by
  obtain ⟨t, h, -⟩ := next_of_ends (o := step (servoed false 0 [])) (p := fun _ => true) (by decide)
  exact ⟨t, by decide, (Laws.eraseClaims_setReq _ _ _).symm, h⟩

theorem witness_ConflictCheckIsFixed : ∃ t, step busyBench = .next t := busyBench_steps

theorem witness_WritesAreFewAndListed : ∃ t, (start false [.ok, .fail]).outstanding = none ∧
    exec (.servoInit 4) (start false [.ok, .fail]) = .next t := by
  obtain ⟨t, h, -⟩ := next_of_ends (o := exec (.servoInit 4) (start false [.ok, .fail])) (p := fun _ => true) (by decide)
  exact ⟨t, by decide, h⟩

theorem witness_ResponsesCountAcknowledgedWrites : ∃ t r,
    runCommand 0xB200000000000000 (start false [.ok, .fail]) = .next t ∧
    t.responses = (start false [.ok, .fail]).responses ++ [r] := by
  obtain ⟨t, h, ht⟩ := next_of_ends (o := runCommand 0xB200000000000000 (start false [.ok, .fail]))
    (p := fun t => t.responses == [0x3001000000000000]) (by decide)
  exact ⟨t, 0x3001000000000000, h, beq_iff_eq.1 ht⟩

theorem witness_RejectionsChangeNothing : ∃ t r, runCommand 0x3000000000000000 (start false []) = .next t ∧
    t.responses = (start false []).responses ++ [r] ∧ responseStatus r ≠ 0 ∧ responseStatus r ≠ 3 := by
  obtain ⟨t, h, ht⟩ := next_of_ends (o := runCommand 0x3000000000000000 (start false []))
    (p := fun t => t.responses == [0x1000000000000000]) (by decide)
  exact ⟨t, 0x1000000000000000, h, beq_iff_eq.1 ht, by decide, by decide⟩

theorem witness_BusErrorStopsCommand : ∃ t r, BusEvent.deviceReset ∉ (start false [.ok, .fail]).busEvents ∧
    exec (.servoInit 4) (start false [.ok, .fail]) = .next t ∧
    t.responses = (start false [.ok, .fail]).responses ++ [r] ∧ responseStatus r = 3 := by
  obtain ⟨t, h, ht⟩ := next_of_ends (o := exec (.servoInit 4) (start false [.ok, .fail]))
    (p := fun t => t.responses == [0x3001000000000000]) (by decide)
  exact ⟨t, 0x3001000000000000, by decide, h, beq_iff_eq.1 ht, by decide⟩

theorem witness_ShadowsFollowAnswers : ∃ t, NoReset (start false [.ok, .fail]).busEvents ∧
    exec (.servoInit 4) (start false [.ok, .fail]) = .next t :=
  witness_WritesAreFewAndListed.imp fun _ h => ⟨by decide, h.2⟩

theorem witness_DeviceFollowsAnswers : ∃ t, BusEvent.deviceReset ∉ (start false [.ok, .fail]).busEvents ∧
    (start false [.ok, .fail]).outstanding = none ∧ exec (.servoInit 4) (start false [.ok, .fail]) = .next t ∧
    t.outstanding = none := by
  obtain ⟨t, h, ht⟩ := next_of_ends (o := exec (.servoInit 4) (start false [.ok, .fail]))
    (p := fun t => t.outstanding == none) (by decide)
  exact ⟨t, by decide, by decide, h, beq_iff_eq.1 ht⟩

theorem witness_DeviceFollowsAnswers_otherContents : ∃ t, step busyBench = .next t := busyBench_steps

theorem witness_ChannelToTimerMap : (15 : Channel).val ≤ 15 ∧ (16 : Channel).val = 16 ∧ (17 : Channel).val = 17 ∧
    (18 : Channel).val = 18 ∧ (19 : Channel).val = 19 := by decide

theorem witness_RegisterAddressMap : (3 : TimerIndex).val < 4 ∧ 4 ≤ (4 : TimerIndex).val := by decide

theorem witness_ExactRootAndRounding_a : (0 : ℚ) ≤ 17 / 2 := by norm_num

theorem witness_ExactRootAndRounding_b : 0 < 4 ∧ (9 : ℚ) / 4 - ⌊(9 : ℚ) / 4⌋ < 1 / 2 ∧
    1 / 2 < (11 : ℚ) / 4 - ⌊(11 : ℚ) / 4⌋ := by
  have h1 : ⌊(9 : ℚ) / 4⌋ = 2 := by norm_num [Int.floor_eq_iff]
  have h2 : ⌊(11 : ℚ) / 4⌋ = 2 := by norm_num [Int.floor_eq_iff]
  rw [h1, h2]; norm_num

theorem witness_ExactRootAndRounding_c : ((10 : ℚ) / 4 - ⌊(10 : ℚ) / 4⌋ = 1 / 2 ∧ ⌊(10 : ℚ) / 4⌋ % 2 = 0) ∧
    ((14 : ℚ) / 4 - ⌊(14 : ℚ) / 4⌋ = 1 / 2 ∧ ⌊(14 : ℚ) / 4⌋ % 2 = 1) := by
  have h1 : ⌊(10 : ℚ) / 4⌋ = 2 := by norm_num [Int.floor_eq_iff]
  have h2 : ⌊(14 : ℚ) / 4⌋ = 3 := by norm_num [Int.floor_eq_iff]
  rw [h1, h2]; norm_num

theorem witness_ResolverFindsFirstMinimum : 1 ≤ 1099 ∧ (resolve 1099).isSome = true ∧ resolve 1098 = none := by decide

theorem witness_ResolverRange : 1 ≤ 1 ∧ (4718592000000 : Nat) < 4718592000001 := by decide

/-- With no claim anywhere nothing is refused. -/
theorem start_not_blocked (check : Bool) (es : List BusEvent) (c : Channel) (new : Claim) :
    ¬ (start check es).Blocked c new := by
  rintro ⟨-, c', -, h, -⟩
  apply h
  simp [start, State.channel, State.resetWith, ChannelRegs.reset]

theorem witness_SetFreqProgramsTimer_no_percentage : (0x320000 : Operand) ≠ 0 ∧ resolve (0x320000 : Operand).toNat = some ⟨1200, 1200⟩ ∧
    ¬ (start true [.ok, .ok]).Blocked 0 (.freq 0x320000) ∧ ((start true [.ok, .ok]).channel 0).pct = none ∧
    (start true [.ok, .ok]).busEvents = .ok :: .ok :: [] :=
  ⟨by decide, by decide, start_not_blocked _ _ _ _, by decide, rfl⟩

theorem witness_SetFreqProgramsTimer_percentage : ¬ (servoed false 0 [.ok, .ok, .ok]).Blocked 0 (.freq 0x320000) ∧
    ((servoed false 0 [.ok, .ok, .ok]).channel 0).pct = some 0x320000 ∧
    (servoed false 0 [.ok, .ok, .ok]).busEvents = .ok :: .ok :: .ok :: [] :=
  ⟨fun h => absurd h.1 (by decide), by decide, rfl⟩

theorem witness_SetFreqProgramsTimer_range : resolve (1098 : Operand).toNat = none := by decide

theorem witness_SetFreqProgramsTimer_conflict : (0x320000 : Operand) ≠ 0 ∧ (∃ r, resolve (0x320000 : Operand).toNat = some r) ∧
    (servoed true 0 []).Blocked 1 (.freq 0x320000) :=
  ⟨by decide, ⟨⟨1200, 1200⟩, by decide⟩, by decide, 0, by decide, by decide, by decide⟩

theorem witness_SetFreqProgramsTimer_first_fails : (0x640000 : Operand) ≠ 0 ∧ resolve (0x640000 : Operand).toNat = some ⟨848, 849⟩ ∧
    ¬ (start true [.fail]).Blocked 0 (.freq 0x640000) ∧ (start true [.fail]).busEvents = .fail :: [] :=
  ⟨by decide, by decide, start_not_blocked _ _ _ _, rfl⟩

theorem witness_SetFreqProgramsTimer_second_fails : ¬ (start true [.ok, .fail]).Blocked 0 (.freq 0x640000) ∧
    (start true [.ok, .fail]).busEvents = .ok :: .fail :: [] :=
  ⟨start_not_blocked _ _ _ _, rfl⟩

theorem witness_SetFreqProgramsTimer_third_fails : ¬ (servoed false 0 [.ok, .ok, .fail]).Blocked 0 (.freq 0x640000) ∧
    ((servoed false 0 [.ok, .ok, .fail]).channel 0).pct = some 0x320000 ∧
    (servoed false 0 [.ok, .ok, .fail]).busEvents = .ok :: .ok :: .fail :: [] :=
  ⟨fun h => absurd h.1 (by decide), by decide, rfl⟩

theorem witness_GetFreqReadsAchieved : ((start false []).timer (timerOf 19)).psc = none ∧
    ((servoed false 0 []).timer (timerOf 0)).psc = some 352 := by decide

theorem witness_SetPeriodWritesPeriod_a : (0 : Operand).toNat = 0 ∧ 65535 < (65536 : Operand).toNat := by decide

theorem witness_SetPeriodWritesPeriod_b : 1 ≤ (1 : Operand).toNat ∧ (65535 : Operand).toNat ≤ 65535 ∧
    (servoed true 0 []).Blocked 1 .unclaimed :=
  ⟨by decide, by decide, by decide, 0, by decide, by decide, by decide⟩

theorem witness_SetPeriodWritesPeriod_c : 1 ≤ (65535 : Operand).toNat ∧ (1 : Operand).toNat ≤ 65535 ∧
    ¬ (start true [.ok]).Blocked 0 .unclaimed ∧ (start true [.ok]).busEvents = .ok :: [] :=
  ⟨by decide, by decide, start_not_blocked _ _ _ _, rfl⟩

theorem witness_SetPeriodWritesPeriod_d : ¬ (start true [.fail]).Blocked 0 .unclaimed ∧
    (start true [.fail]).busEvents = .fail :: [] :=
  ⟨start_not_blocked _ _ _ _, rfl⟩

theorem witness_GetPeriodReadsPeriod : ((servoed false 0 []).timer (timerOf 0)).arr = 4095 := by decide

theorem witness_SetPrescalerWritesDivider_a : (0 : Operand).toNat = 0 ∧ 65535 < (65536 : Operand).toNat := by decide

theorem witness_SetPrescalerWritesDivider_b : 1 ≤ (1 : Operand).toNat ∧ (65535 : Operand).toNat ≤ 65535 ∧
    (servoed true 0 []).Blocked 3 .unclaimed :=
  ⟨by decide, by decide, by decide, 0, by decide, by decide, by decide⟩

theorem witness_SetPrescalerWritesDivider_c : 1 ≤ (65535 : Operand).toNat ∧ (1 : Operand).toNat ≤ 65535 ∧
    ¬ (start true [.ok]).Blocked 0 .unclaimed ∧ (start true [.ok]).busEvents = .ok :: [] :=
  ⟨by decide, by decide, start_not_blocked _ _ _ _, rfl⟩

theorem witness_SetPrescalerWritesDivider_d : ¬ (start true [.fail]).Blocked 0 .unclaimed ∧
    (start true [.fail]).busEvents = .fail :: [] :=
  ⟨start_not_blocked _ _ _ _, rfl⟩

theorem witness_GetPrescalerReadsDivider : ((start false []).timer (timerOf 16)).psc = none ∧
    ((servoed false 0 []).timer (timerOf 3)).psc = some 352 := by decide

theorem witness_SiblingsReadBackSharedTimer : (0x320000 : Operand) ≠ 0 ∧
    resolve (0x320000 : Operand).toNat = some ⟨1200, 1200⟩ ∧ ¬ (start true [.ok, .ok]).Blocked 0 (.freq 0x320000) ∧
    ((start true [.ok, .ok]).channel 0).pct = none ∧ (start true [.ok, .ok]).busEvents = .ok :: .ok :: [] ∧
    timerOf 3 = timerOf 0 :=
  ⟨by decide, by decide, start_not_blocked _ _ _ _, by decide, rfl, by decide⟩

theorem witness_SetPwWritesClampedWidth_below : ((0xFFFFFFFFFFFF : Operand).toInt < 0 ∧ (0 : Nat) = 0) ∧
    (start false [.ok]).busEvents = .ok :: [] := by decide

theorem witness_SetPwWritesClampedWidth_above : (65535 < (65536 : Operand).toInt ∧ (65535 : Nat) = 65535) ∧
    (start false [.fail]).busEvents = .fail :: [] := by decide

theorem witness_SetPwWritesClampedWidth_inside : (((65535 : Nat) : Int) = (65535 : Operand).toInt ∧ 65535 ≤ 65535) ∧
    (((0 : Nat) : Int) = (0 : Operand).toInt ∧ 0 ≤ 65535) := by decide

theorem witness_GetPwReadsWidth : ((start false []).channel 0).pw = none ∧
    ((servoed false 0 []).channel 0).pw = some 307 := by decide

theorem witness_SetPwPctWritesShareOfPeriod : 6553600 < (6553601 : Operand).toNat ∧ (6553600 : Operand).toNat ≤ 6553600 ∧
    (start false [.ok]).busEvents = .ok :: [] ∧ (start false [.fail]).busEvents = .fail :: [] := by decide

theorem witness_PctCountStaysInPeriod : (6553600 : Nat) ≤ 6553600 := by decide

theorem witness_GetPwPctReadsPercentage : ((start false []).channel 0).pct = none ∧
    ((servoed false 0 []).channel 0).pct = some 0x320000 := by decide

theorem witness_ServoCountIsLinearMap : (-23041 : Int) ≤ 23041 := by decide

theorem witness_ServoCountTies : (-23040 : Int) ≤ -19200 ∧ (23040 : Int) ≤ 23040 := by decide

theorem witness_ServoInitProgramsCarrier : (twoClaims.modChannel 0 fun _ => { servoChannel with req := .freq 1 }).Blocked 1 .servo ∧
    ¬ (start true [.ok, .ok]).Blocked 0 .servo ∧ (start true [.ok, .ok]).busEvents = .ok :: .ok :: [] ∧
    (start true [.fail]).busEvents = .fail :: [] ∧ (start true [.ok, .fail]).busEvents = .ok :: .fail :: [] :=
  ⟨⟨by decide, 0, by decide, by decide, by decide⟩, start_not_blocked _ _ _ _, rfl, rfl, rfl⟩

theorem witness_ServoAngleWritesCount : (start false [.ok]).busEvents = .ok :: [] ∧
    (start false [.fail]).busEvents = .fail :: [] := by decide

theorem witness_GetAngleReadsClampedAngle : ((start false []).channel 0).angle = none ∧
    ((servoed false 0 []).channel 0).angle = some (-23040) := by decide

theorem witness_GettersLeaveEverything : ∃ t, exec (.getAngle 0) (servoed false 0 []) = .next t := by
  obtain ⟨t, h, -⟩ := next_of_ends (o := exec (.getAngle 0) (servoed false 0 [])) (p := fun _ => true) (by decide)
  exact ⟨t, h⟩

theorem witness_PulseWidthFrame : ∃ t, OnlyAnswers (start false [.fail]).busEvents ∧
    exec (.servoAngle 0 0x2D00) (start false [.fail]) = .next t := by
  obtain ⟨t, h, -⟩ := next_of_ends (o := exec (.servoAngle 0 0x2D00) (start false [.fail])) (p := fun _ => true) (by decide)
  exact ⟨t, by decide, h⟩

theorem witness_RawTimerWriteFrame : ∃ t u, OnlyAnswers (start false [.ok]).busEvents ∧
    exec (.setPeriod 0 100) (start false [.ok]) = .next t ∧ exec (.setPrescaler 0 352) (start false [.ok]) = .next u := by
  obtain ⟨t, h, -⟩ := next_of_ends (o := exec (.setPeriod 0 100) (start false [.ok])) (p := fun _ => true) (by decide)
  obtain ⟨u, h', -⟩ := next_of_ends (o := exec (.setPrescaler 0 352) (start false [.ok])) (p := fun _ => true) (by decide)
  exact ⟨t, u, by decide, h, h'⟩

theorem witness_TimerProgrammingFrame : ∃ t u, OnlyAnswers (start false [.ok, .ok]).busEvents ∧
    exec (.setFreq 0 0x320000) (start false [.ok, .ok]) = .next t ∧
    exec (.servoInit 0) (start false [.ok, .ok]) = .next u := by
  obtain ⟨t, h, -⟩ := next_of_ends (o := exec (.setFreq 0 0x320000) (start false [.ok, .ok])) (p := fun _ => true) (by decide)
  obtain ⟨u, h', -⟩ := next_of_ends (o := exec (.servoInit 0) (start false [.ok, .ok])) (p := fun _ => true) (by decide)
  exact ⟨t, u, by decide, h, h'⟩

theorem witness_ProgrammedOutput_a : (0x320000 : Operand) ≠ 0 ∧ resolve (0x320000 : Operand).toNat = some ⟨1200, 1200⟩ ∧
    ¬ (start true [.ok, .ok]).Blocked 0 (.freq 0x320000) ∧ ((start true [.ok, .ok]).channel 0).pct = none ∧
    (start true [.ok, .ok]).busEvents = .ok :: .ok :: [] :=
  witness_SetFreqProgramsTimer_no_percentage

theorem witness_ProgrammedOutput_b : ¬ (start true [.ok, .ok, .ok]).Blocked 0 .servo ∧
    (start true [.ok, .ok, .ok]).busEvents = .ok :: .ok :: .ok :: [] :=
  ⟨start_not_blocked _ _ _ _, rfl⟩

theorem witness_SiblingDutyDrifts : Sibling 1 0 ∧ (servoed false 0 [.ok]).device.read (pwReg 0).toNat = some 307 ∧
    1 ≤ (100 : Operand).toNat ∧ (100 : Operand).toNat ≤ 65535 ∧
    ¬ (servoed false 0 [.ok]).Blocked 1 .unclaimed ∧ (servoed false 0 [.ok]).busEvents = .ok :: [] :=
  ⟨by decide, by decide, by decide, by decide, fun h => absurd h.1 (by decide), rfl⟩

theorem witness_SiblingDutyDrifts_two_writes : (servoed false 0 [.ok, .ok]).device.read (pwReg 0).toNat = some 307 ∧
    (0x320000 : Operand) ≠ 0 ∧ resolve (0x320000 : Operand).toNat = some ⟨1200, 1200⟩ ∧
    ¬ (servoed false 0 [.ok, .ok]).Blocked 1 (.freq 0x320000) ∧ ¬ (servoed false 0 [.ok, .ok]).Blocked 1 .servo ∧
    ((servoed false 0 [.ok, .ok]).channel 1).pct = none ∧ (servoed false 0 [.ok, .ok]).busEvents = .ok :: .ok :: [] :=
  ⟨by decide, by decide, by decide, fun h => absurd h.1 (by decide), fun h => absurd h.1 (by decide), by decide, rfl⟩

/-- Channel 1 holds a standing percentage too. -/
theorem witness_SiblingDutyDrifts_three_writes :
    (((servoed false 0 [.ok, .ok, .ok]).setPct 1 (some 6553600)).channel 1).pct.isSome ∧
    ((servoed false 0 [.ok, .ok, .ok]).setPct 1 (some 6553600)).busEvents = .ok :: .ok :: .ok :: [] ∧
    ((servoed false 0 [.ok, .ok, .ok]).setPct 1 (some 6553600)).device.read (pwReg 0).toNat = some 307 ∧
    ¬ ((servoed false 0 [.ok, .ok, .ok]).setPct 1 (some 6553600)).Blocked 1 (.freq 0x320000) :=
  ⟨by decide, rfl, by decide, fun h => absurd h.1 (by decide)⟩

theorem witness_BusAckBit_one : (start false [.ok]).busEvents = .acknowledged 1 :: [] := rfl

theorem witness_BusAckBit_zero : (start false [.fail]).busEvents = .acknowledged 0 :: [] := rfl

end Sys2Proof.Tests
end

section
/-! SUPPORT. What the answers to a command's writes do to the shadows and their flags (10_state.md R24, R25), said once for the three
kinds of shadowed register and carried through a command's list of writes. -/

namespace Sys2Proof.Proofs.Shadows

open Sys2Proof Sys2Proof.Machine Sys2Proof.Machine.Laws

/-! ## The shadowed registers, uniformly -/

/-- A device register that PFR shadows (R51). -/
inductive Reg where
  | psc (j : TimerIndex)
  | arr (j : TimerIndex)
  | pw (c : Channel)

/-- The address of the register (R51). -/
def Reg.addr : Reg → RegAddr
  | .psc j => pscReg j
  | .arr j => arrReg j
  | .pw c => pwReg c

/-- The shadow of a register and its sync flag; a period always has a value (R21). -/
def shadow (s : State) : Reg → Option RegValue × Bool
  | .psc j => ((s.timer j).psc, (s.timer j).pscUns)
  | .arr j => (some (s.timer j).arr, (s.timer j).arrUns)
  | .pw c => ((s.channel c).pw, (s.channel c).pwUns)

/-- The shadow of a register that holds the image `v`: for a prescaler the divider, which is 1 more (R23, R51). -/
def Reg.ofImage : Reg → RegValue → RegValue
  | .psc _, v => v + 1
  | .arr _, v => v
  | .pw _, v => v

/-- What the answer to a write of `v` makes of the shadow and the flag of its register (R24, R25). -/
def Reg.answered (x : Reg) (v : RegValue) : BusAnswer → Option RegValue × Bool → Option RegValue × Bool
  | .ok, _ => (some (x.ofImage v), false)
  | .fail, old => (old.1, true)

/-- The register a write is for. -/
def target : Kind → Reg
  | .psc j _ => .psc j
  | .arr j _ => .arr j
  | .pw c _ => .pw c

/-- What the model does on the answer to a write. -/
def onAnswer (k : Kind) : BusAnswer → State → State
  | .ok => k.ack
  | .fail => k.fail

theorem addr_target (k : Kind) : (target k).addr = k.reg := by cases k <;> rfl

theorem addr_inj {x y : Reg} (h : x.addr = y.addr) : x = y := by
  cases x <;> cases y <;>
    simp_all [Reg.addr, pscReg_inj, arrReg_inj, pwReg_inj, (pwReg_ne_pscReg _ _).symm, (pwReg_ne_arrReg _ _).symm,
      (pscReg_ne_arrReg _ _).symm]

theorem shadow_congr {s t : State} (ht : t.timers = s.timers) (hc : t.channels = s.channels) : shadow t = shadow s := by
  funext x
  cases x <;> simp [shadow, timer_of_timers_eq ht, channel_of_channels_eq hc]

theorem shadow_neutral {f : State → State} (hf : Neutral f) (s : State) : shadow (f s) = shadow s := by
  funext x
  cases x <;> simp [shadow, hf.timer, hf.pw, hf.pwUns]

/-- A change of a timer that keeps its period and period flag is seen in its prescaler shadow only. -/
theorem shadow_modTimer_of_ne_psc (s : State) {j : TimerIndex} {f : TimerRegs → TimerRegs}
    (hf : ∀ r, (f r).arr = r.arr ∧ (f r).arrUns = r.arrUns) {x : Reg} (hx : x ≠ .psc j) :
    shadow (s.modTimer j f) x = shadow s x := by
  cases x with
  | psc i => simp [shadow, show i ≠ j from fun h => hx (h ▸ rfl)]
  | arr i =>
    by_cases h : i = j
    · subst h; simp [shadow, hf]
    · simp [shadow, h]
  | pw c => simp [shadow]

/-- A change of a timer that keeps its divider and divider flag is seen in its period shadow only. -/
theorem shadow_modTimer_of_ne_arr (s : State) {j : TimerIndex} {f : TimerRegs → TimerRegs}
    (hf : ∀ r, (f r).psc = r.psc ∧ (f r).pscUns = r.pscUns) {x : Reg} (hx : x ≠ .arr j) :
    shadow (s.modTimer j f) x = shadow s x := by
  cases x with
  | psc i =>
    by_cases h : i = j
    · subst h; simp [shadow, hf]
    · simp [shadow, h]
  | arr i => simp [shadow, show i ≠ j from fun h => hx (h ▸ rfl)]
  | pw c => simp [shadow]

theorem shadow_modChannel_of_ne (s : State) {c : Channel} (f : ChannelRegs → ChannelRegs) {x : Reg} (hx : x ≠ .pw c) :
    shadow (s.modChannel c f) x = shadow s x := by
  cases x with
  | psc i => simp [shadow]
  | arr i => simp [shadow]
  | pw c' => simp [shadow, show c' ≠ c from fun h => hx (h ▸ rfl)]

theorem shadow_onAnswer_of_ne {k : Kind} (a : BusAnswer) (s : State) {x : Reg} (hx : x ≠ target k) :
    shadow (onAnswer k a s) x = shadow s x := by
  cases k with
  | psc j p => cases a <;> refine shadow_modTimer_of_ne_psc s ?_ hx <;> exact fun _ => ⟨rfl, rfl⟩
  | arr j T => cases a <;> refine shadow_modTimer_of_ne_arr s ?_ hx <;> exact fun _ => ⟨rfl, rfl⟩
  | pw c v => cases a <;> exact shadow_modChannel_of_ne s _ hx

/-- The prescaler register holds the divider less 1 (R51), so 1 more than its image is the divider. -/
theorem ofNat_pred_add_one {p : Nat} (h : 1 ≤ p) : BitVec.ofNat 16 (p - 1) + 1#16 = BitVec.ofNat 16 p := by
  rw [← BitVec.ofNat_add, Nat.sub_add_cancel h]

theorem shadow_ack_target {k : Kind} (hk : k.InRange) (s : State) :
    shadow (k.ack s) (target k) = (some ((target k).ofImage k.request.value), false) := by
  cases k with
  | psc j p =>
    simp [shadow, target, Kind.ack, TimerRegs.ackPsc, Reg.ofImage, Kind.request, Kind.image, ofNat_pred_add_one hk.1]
  | arr j T => simp [shadow, target, Kind.ack, TimerRegs.ackArr, Reg.ofImage, Kind.request, Kind.image]
  | pw c v => simp [shadow, target, Kind.ack, ChannelRegs.ackPw, Reg.ofImage, Kind.request, Kind.image]

theorem shadow_fail_target (k : Kind) (s : State) :
    shadow (k.fail s) (target k) = ((shadow s (target k)).1, true) := by
  cases k with
  | psc j p => simp [shadow, target, Kind.fail, TimerRegs.failPsc]
  | arr j T => simp [shadow, target, Kind.fail, TimerRegs.failArr]
  | pw c v => simp [shadow, target, Kind.fail, ChannelRegs.failPw]

theorem shadow_onAnswer_target {k : Kind} (hk : k.InRange) (a : BusAnswer) (s : State) :
    shadow (onAnswer k a s) (target k) = (target k).answered k.request.value a (shadow s (target k)) := by
  cases a with
  | ok => exact shadow_ack_target hk s
  | fail => exact shadow_fail_target k s

/-! ## Shadows that follow a log of answers -/

/-- Between `s` and `t`, the shadow and flag of `x` changed as the answers in `log` say, and not without one. -/
structure Follows (s t : State) (log : List BusRecord) (x : Reg) : Prop where
  answered : ∀ v a, ⟨⟨x.addr, v⟩, some a⟩ ∈ log → shadow t x = x.answered v a (shadow s x)
  untouched : (∀ r ∈ log, r.request.reg ≠ x.addr) → shadow t x = shadow s x

section Follows

variable {s t u : State} {log : List BusRecord} {x : Reg}

theorem Follows.nil (h : shadow t = shadow s) : Follows s t [] x := ⟨by simp, fun _ => by rw [h]⟩

theorem Follows.congr (hx : Follows s u log x) (h : shadow t x = shadow u x) : Follows s t log x :=
  ⟨h ▸ hx.answered, h ▸ hx.untouched⟩

/-- The record of a write to another register says nothing of `x`. -/
theorem Follows.append_of_ne {r : BusRecord} (hx : Follows s t log x) (hr : r.request.reg ≠ x.addr) :
    Follows s t (log ++ [r]) x where
  answered v a hm := hx.answered v a <| (List.mem_append.1 hm).resolve_right fun h => hr (List.mem_singleton.1 h ▸ rfl)
  untouched hn := hx.untouched fun r hr => hn r (List.mem_append_left _ hr)

/-- Where `log` has no write to `x`, one more to it decides its shadow. -/
theorem Follows.append_of_new {v : RegValue} {a : BusAnswer} (hnew : ∀ r ∈ log, r.request.reg ≠ x.addr)
    (h : shadow t x = x.answered v a (shadow s x)) : Follows s t (log ++ [⟨⟨x.addr, v⟩, some a⟩]) x where
  answered v' a' hm := by
    have hlast := (List.mem_append.1 hm).resolve_left fun hm => hnew _ hm rfl
    obtain ⟨rfl, rfl⟩ : v' = v ∧ a' = a := by simpa using hlast
    exact h
  untouched hn := absurd rfl (hn _ (List.mem_append_right _ List.mem_cons_self))

/-- The answer to a write of a register not in the log: every shadow follows the log with that answer. -/
theorem Follows.onAnswer {k : Kind} (hk : k.InRange) (a : BusAnswer) (hx : Follows s u log x)
    (hnew : ∀ r ∈ log, r.request.reg ≠ k.reg) :
    Follows s (onAnswer k a u) (log ++ [⟨k.request, some a⟩]) x := by
  by_cases hxk : x = target k
  · subst hxk
    rw [← addr_target] at hnew
    have h := shadow_onAnswer_target hk a u
    rw [hx.untouched hnew] at h
    have hlast := Follows.append_of_new hnew h
    rwa [addr_target] at hlast
  · refine (hx.congr (shadow_onAnswer_of_ne a u hxk)).append_of_ne fun hr => hxk ?_
    exact addr_inj (hr.symm.trans (addr_target k).symm)

end Follows

/-! ## Through a command's writes -/

/-- Since `s`, the bus log has grown by answers that all shadows follow, none of them to a register that `ws` is still to write. -/
def AllFollow (s : State) (ws : List Write) (t : State) : Prop :=
  ∃ log, t.busLog = s.busLog ++ log ∧ (∀ x, Follows s t log x) ∧ ∀ w ∈ ws, ∀ r ∈ log, r.request.reg ≠ w.kind.reg

/-- What holds before the writes `ws` of a command that began in `s`: no reset is to come, each of `ws` is to a register of its own,
and the shadows follow the log so far. -/
def Before (s : State) (ws : List Write) (u : State) : Prop :=
  NoReset u.busEvents ∧ ws.Pairwise (fun a b => a.kind.reg ≠ b.kind.reg) ∧ AllFollow s ws u

section Steps

variable {s t u v : State} {w : Write} {ws : List Write} {es : List BusEvent}

theorem AllFollow.start (hlog : t.busLog = s.busLog) (hsh : shadow t = shadow s) : AllFollow s ws t :=
  ⟨[], by simpa using hlog, fun _ => .nil hsh, by simp⟩

theorem AllFollow.congr (h : AllFollow s ws u) (hlog : t.busLog = u.busLog) (hsh : shadow t = shadow u) :
    AllFollow s ws t := by
  obtain ⟨log, hl, hx, hnew⟩ := h
  exact ⟨log, hlog.trans hl, fun x => (hx x).congr (by rw [hsh]), hnew⟩

theorem AllFollow.neutral (h : AllFollow s ws u) {f : State → State} (hf : Neutral f) : AllFollow s ws (f u) :=
  h.congr (hf.busLog u) (shadow_neutral hf u)

/-- A command may end before its last write. -/
theorem AllFollow.stop (h : AllFollow s ws u) : AllFollow s [] u := by
  obtain ⟨log, hl, hx, -⟩ := h
  exact ⟨log, hl, hx, by simp⟩

/-- A request that stands changes no shadow and no log. -/
theorem AllFollow.waiting (h : AllFollow s ws u) {q : BusRequest} (hv : Waiting u q v) : AllFollow s ws v := by
  obtain rfl | ⟨rfl, -⟩ := hv <;> exact h.congr rfl rfl

theorem onAnswer_busLog (k : Kind) (a : BusAnswer) (s : State) : (onAnswer k a s).busLog = s.busLog := by
  cases a <;> cases k <;> rfl

theorem onAnswer_busEvents (k : Kind) (a : BusAnswer) (s : State) : (onAnswer k a s).busEvents = s.busEvents := by
  cases a <;> cases k <;> rfl

/-- The answer to the first write left. -/
theorem AllFollow.onAnswer (h : AllFollow s (w :: ws) u) (hw : ∀ w' ∈ ws, w.kind.reg ≠ w'.kind.reg)
    (a : BusAnswer) (es : List BusEvent) :
    AllFollow s ws (onAnswer w.kind a (u.answered w.kind.request a es)) := by
  obtain ⟨log, hl, hx, hnew⟩ := h
  refine ⟨log ++ [⟨w.kind.request, some a⟩], ?_, fun x => ?_, fun w' hw' r hr => ?_⟩
  · rw [onAnswer_busLog, answered_busLog, hl, List.append_assoc]
  · have hu : Follows s (u.answered w.kind.request a es) log x :=
      (hx x).congr (congrFun (shadow_congr rfl rfl) x)
    exact hu.onAnswer w.inRange a (hnew w List.mem_cons_self)
  · obtain hr | hr := List.mem_append.1 hr
    · exact hnew w' (List.mem_cons_of_mem _ hw') r hr
    · rw [List.mem_singleton.1 hr]; exact hw w' hw'

theorem noReset_of_suffix {es' : List BusEvent} (h : NoReset es) (hs : es' <:+ es) : NoReset es' :=
  ⟨fun hm => h.1 (hs.subset hm), fun hm => h.2 (hs.subset hm)⟩

/-- An `OK` to the first write leaves what holds before the rest. -/
theorem Before.ack (h : Before s (w :: ws) u) (hv : Waiting u w.kind.request v) (hs : es <:+ u.busEvents) :
    Before s ws (w.andThen (w.kind.ack (v.answered w.kind.request .ok es))) := by
  obtain ⟨hreset, hregs, hlog⟩ := h
  obtain ⟨hw, hws⟩ := List.pairwise_cons.1 hregs
  have hes : (w.andThen (w.kind.ack (v.answered w.kind.request .ok es))).busEvents = es :=
    (w.neutral.busEvents _).trans (onAnswer_busEvents w.kind .ok _)
  exact ⟨hes.symm ▸ noReset_of_suffix hreset hs, hws, ((hlog.waiting hv).onAnswer hw .ok es).neutral w.neutral⟩

/-- A `FAIL` to the first write ends the command (R206). -/
theorem Before.fail (h : Before s (w :: ws) u) (hv : Waiting u w.kind.request v) :
    AllFollow s [] (w.kind.fail (v.answered w.kind.request .fail es)) := by
  obtain ⟨-, hregs, hlog⟩ := h
  exact ((hlog.waiting hv).onAnswer (List.pairwise_cons.1 hregs).1 .fail es).stop

end Steps

/-- Where no reset comes, a command's shadows follow the answers to its writes. -/
theorem exec_allFollow {i : Instr} {s t : State} (hreset : NoReset s.busEvents) (ht : exec i s = .next t) :
    AllFollow s [] t := by
  cases exec_shape i s with
  | answered st r h =>
    obtain rfl : s.deliver _ = t := by simpa [h] using ht
    exact .start rfl rfl
  | writes pre post ws r hpre hpost _ _ hreg h =>
    refine runWrites_elim (Q := fun ws _ u => Before s ws u) (fun n u hQ hu => ?_)
      (fun w ws n u v es hQ hv hs => hQ.ack hv hs) (fun w ws n u v es hQ hv _ => (hQ.fail hv).congr rfl rfl)
      (fun w ws n u v hQ hv => ?_) (fun w ws n u v es hQ _ _ hm => absurd hm hQ.1.1)
      (fun w ws n u v es hQ _ _ hm => absurd hm hQ.1.2) ws 0 (pre s) ?_ (h.symm.trans ht)
    · obtain ⟨-, -, hlog⟩ := hQ
      obtain rfl : (post u).deliver _ = t := by simpa using hu
      exact (hlog.neutral hpost).congr rfl rfl
    · obtain ⟨-, -, hlog⟩ := hQ
      exact (hlog.stop.waiting hv).congr rfl rfl
    · exact ⟨by rwa [hpre.busEvents], hreg, .start (hpre.busLog s) (shadow_neutral hpre s)⟩

/-- Settles O27: every command is a list of writes to different registers, and each answer does to its shadow and flag what R24 and
R25 say, and nothing to the others. -/
theorem shadowsFollowAnswers : Obligations.ShadowsFollowAnswers := by
  intro i s t hreset ht
  obtain ⟨log, hl, hx, -⟩ := exec_allFollow hreset ht
  refine ⟨log, hl, fun j => ?_, fun j => ?_, fun c => ?_⟩
  · obtain ⟨hans, hun⟩ := hx (.psc j)
    exact ⟨fun v h => Prod.mk.inj (hans v .ok h), fun v h => Prod.mk.inj (hans v .fail h), fun h => Prod.mk.inj (hun h)⟩
  · obtain ⟨hans, hun⟩ := hx (.arr j)
    have inj {a b : RegValue} {f g : Bool} (h : (some a, f) = (some b, g)) : a = b ∧ f = g := by simpa using h
    exact ⟨fun v h => inj (hans v .ok h), fun v h => inj (hans v .fail h), fun h => inj (hun h)⟩
  · obtain ⟨hans, hun⟩ := hx (.pw c)
    exact ⟨fun v h => Prod.mk.inj (hans v .ok h), fun v h => Prod.mk.inj (hans v .fail h), fun h => Prod.mk.inj (hun h)⟩

end Sys2Proof.Proofs.Shadows
end

section
/-! SUPPORT. The device register space (20_memory.md): the bytes of a register write and what they leave (R53), what the answers to a
command's writes leave known of each register, and that a step reads none of it (R56). -/

namespace Sys2Proof.Proofs.Device

open Sys2Proof Sys2Proof.Machine Sys2Proof.Machine.Laws

/-! ## The transaction of a register write -/

/-- A register value is its high byte and its low byte. -/
theorem value_toNat_of_bytes (v : RegValue) :
    v.toNat = (v.extractLsb' 8 8).toNat * 256 + (v.extractLsb' 0 8).toNat := by
  simp only [BitVec.extractLsb'_toNat, Nat.shiftRight_eq_div_pow]
  omega

/-- Settles O29: the two value bytes are the halves of the value, and the device joins them again in the register they name. -/
theorem writeTransactionBytes : Obligations.WriteTransactionBytes := by
  refine ⟨fun q => ⟨_, _, rfl, value_toNat_of_bytes q.value⟩, fun m q a => ?_⟩
  rw [receive_wireBytes, read_write]
  exact if_congr eq_comm rfl rfl

/-! ## What the answers leave known -/

/-- Since `s`, the bus log has grown by records, and what is known of the device is what they leave. -/
def KnownByLog (s t : State) : Prop :=
  ∃ log, t.busLog = s.busLog ++ log ∧ ∀ a, t.device.read a = readAfter s.device log a

theorem readAfter_append_singleton (m : Memory) (log : List BusRecord) (r : BusRecord) (a : Nat) :
    readAfter m (log ++ [r]) a =
      if r.request.reg.toNat = a then (if r.answer = some .ok then some r.request.value else none)
      else readAfter m log a := by
  rw [readAfter, List.foldl_append]
  rfl

theorem ack_device (k : Kind) (s : State) : (k.ack s).device = s.device := by cases k <;> rfl

theorem fail_device (k : Kind) (s : State) : (k.fail s).device = s.device := by cases k <;> rfl

section Log

variable {s t u : State} {q : BusRequest}

theorem KnownByLog.start (hlog : t.busLog = s.busLog) (hdev : t.device = s.device) : KnownByLog s t :=
  ⟨[], by simpa using hlog, fun _ => by rw [hdev]; rfl⟩

theorem KnownByLog.congr (h : KnownByLog s u) (hlog : t.busLog = u.busLog) (hdev : t.device = u.device) : KnownByLog s t := by
  obtain ⟨log, hl, hread⟩ := h
  exact ⟨log, hlog.trans hl, fun a => by rw [hdev, hread]⟩

/-- One more record, with a device that holds in its register what the record says, and elsewhere what it held. -/
theorem KnownByLog.append (h : KnownByLog s u) (r : BusRecord) (hlog : t.busLog = u.busLog ++ [r])
    (hdev : ∀ a, t.device.read a =
      if r.request.reg.toNat = a then (if r.answer = some .ok then some r.request.value else none)
      else u.device.read a) : KnownByLog s t := by
  obtain ⟨log, hl, hread⟩ := h
  refine ⟨log ++ [r], by rw [hlog, hl, List.append_assoc], fun a => ?_⟩
  rw [hdev, readAfter_append_singleton, hread]

/-- A write that is answered. -/
theorem KnownByLog.answered (h : KnownByLog s u) (a : BusAnswer) (es : List BusEvent) :
    KnownByLog s ((u.issue q).answered q a es) :=
  h.append ⟨q, some a⟩ rfl fun x => by rw [read_issue_answered]; simp only [Option.some.injEq]

/-- A write that a reset abandons: it is recorded without an answer, and its register stays unknown (R233). -/
theorem KnownByLog.abandoned (h : KnownByLog s u) (es : List BusEvent) :
    KnownByLog s { u.issue q with busEvents := es }.blockReset :=
  h.append ⟨q, none⟩ rfl fun _ => read_forget _ _ _

/-- A reset after an answer abandons no write. -/
theorem KnownByLog.blockReset (h : KnownByLog s u) (hout : u.outstanding = none) : KnownByLog s u.blockReset :=
  h.congr (by simp [hout]) rfl

end Log

/-- What holds before each write of a command that began in `s`: no reset of the device is to come, and the log so far says what is
known of it. -/
def Before (s u : State) : Prop := .deviceReset ∉ u.busEvents ∧ KnownByLog s u

/-- With no reset of the device to come, a request stands in one way. -/
theorem Before.eq_issue {s u v : State} {q : BusRequest} (h : Before s u) (hv : Waiting u q v) : v = u.issue q :=
  hv.resolve_right fun hv => h.1 hv.2

theorem Before.ack {s u v : State} {w : Write} {es : List BusEvent} (h : Before s u) (hv : Waiting u w.kind.request v)
    (hs : es <:+ u.busEvents) : Before s (w.andThen (w.kind.ack (v.answered w.kind.request .ok es))) := by
  obtain rfl := h.eq_issue hv
  obtain ⟨hreset, hlog⟩ := h
  have hes : (w.andThen (w.kind.ack ((u.issue w.kind.request).answered w.kind.request .ok es))).busEvents = es :=
    (w.neutral.busEvents _).trans (Shadows.onAnswer_busEvents w.kind .ok _)
  refine ⟨hes.symm ▸ fun hm => hreset (hs.subset hm), (hlog.answered (q := w.kind.request) .ok es).congr ?_ ?_⟩
  · exact (w.neutral.busLog _).trans (Shadows.onAnswer_busLog w.kind .ok _)
  · exact (w.neutral.device _).trans (ack_device w.kind _)

/-- At the end of a command the log says what is known of the device, unless a write is still outstanding. -/
theorem exec_knownByLog {i : Instr} {s t : State} (hreset : .deviceReset ∉ s.busEvents) (ht : exec i s = .next t)
    (hout : t.outstanding = none) : KnownByLog s t := by
  cases exec_shape i s with
  | answered st r h =>
    obtain rfl : s.deliver _ = t := by simpa [h] using ht
    exact .start rfl rfl
  | writes pre post ws r hpre hpost _ _ _ h =>
    refine runWrites_elim (Q := fun _ _ u => Before s u) (P := fun t => t.outstanding = none → KnownByLog s t)
      (fun n u hQ hu _ => ?_) (fun w ws n u v es hQ hv hs => hQ.ack hv hs) (fun w ws n u v es hQ hv _ _ => ?_)
      (fun w ws n u v hQ hv hnone => ?_) (fun w ws n u v es hQ hv _ _ _ => ?_) (fun w ws n u v es hQ hv _ _ _ => ?_)
      ws 0 (pre s) ?_ (h.symm.trans ht) hout
    · obtain rfl : (post u).deliver _ = t := by simpa using hu
      exact hQ.2.congr (hpost.busLog u) (hpost.device u)
    · obtain rfl := hQ.eq_issue hv
      exact (hQ.2.answered .fail es).congr (Shadows.onAnswer_busLog w.kind .fail _) (fail_device w.kind _)
    · obtain rfl := hQ.eq_issue hv
      cases hnone
    · obtain rfl := hQ.eq_issue hv
      exact hQ.2.abandoned es
    · obtain rfl := hQ.eq_issue hv
      exact (hQ.2.answered .ok es).blockReset rfl
    · exact ⟨by rwa [hpre.busEvents], .start (hpre.busLog s) (hpre.device s)⟩

/-! ## No step reads the device -/

/-- `s` with other device contents. -/
def withDevice (s : State) (d : Memory) : State := { s with device := d }

@[simp] theorem timer_withDevice (s : State) (d : Memory) (j : TimerIndex) : (withDevice s d).timer j = s.timer j := (rfl)

@[simp] theorem channel_withDevice (s : State) (d : Memory) (c : Channel) : (withDevice s d).channel c = s.channel c := (rfl)

@[simp] theorem conflict_withDevice (s : State) (d : Memory) (c : Channel) (new : Claim) :
    conflict (withDevice s d) c new = conflict s c new := (rfl)

/-- Both outcomes are next states, which differ in the device contents only. -/
def SameButDevice (r r' : Result) : Prop := ∃ t d, r = .next t ∧ r' = .next (withDevice t d)

/-- With other device contents in the state it starts from, `k` ends in the same but for the device contents. -/
def IgnoresDevice (k : State → Result) : Prop := ∀ s d, SameButDevice (k s) (k (withDevice s d))

/-- `f` is the same change whatever the device holds, and leaves it alone. -/
def CommutesWithDevice (f : State → State) : Prop := ∀ s d, f (withDevice s d) = withDevice (f s) d

theorem setReq_withDevice (c : Channel) (x : Claim) : CommutesWithDevice (·.setReq c x) := fun _ _ => rfl

theorem setPct_withDevice (c : Channel) (x : Option Operand) : CommutesWithDevice (·.setPct c x) := fun _ _ => rfl

theorem setAngle_withDevice (c : Channel) (a : Int) : CommutesWithDevice (·.setAngle c a) := fun _ _ => rfl

theorem accept_withDevice : CommutesWithDevice State.accept := fun _ _ => rfl

theorem respond_ignoresDevice (st : Status) (n : Nat) (r : Operand) : IgnoresDevice (respond st n r) :=
  fun _ d => ⟨_, d, rfl, rfl⟩

theorem raise_ignoresDevice (st : Status) (n : Nat) : IgnoresDevice (raise st n) := respond_ignoresDevice st n 0

theorem IgnoresDevice.comp {k : State → Result} (hk : IgnoresDevice k) {f : State → State} (hf : CommutesWithDevice f) :
    IgnoresDevice fun s => k (f s) := by
  intro s d
  have h := hk (f s) d
  rwa [← hf] at h

/-- What happens to an outstanding request does not depend on the device. -/
theorem awaitAnswer_withDevice (q : BusRequest) (s : State) (d : Memory) (es : List BusEvent) :
    (∃ a u d', awaitAnswer q s es = .answer a u ∧ awaitAnswer q (withDevice s d) es = .answer a (withDevice u d')) ∨
    ∃ u d', awaitAnswer q s es = .noAnswer u ∧ awaitAnswer q (withDevice s d) es = .noAnswer (withDevice u d') := by
  induction es generalizing s d with
  | nil => exact .inr ⟨_, d, rfl, rfl⟩
  | cons e es ih =>
    cases e with
    | ok => exact .inl ⟨.ok, _, d.receive q.wireBytes, rfl, rfl⟩
    | fail => exact .inl ⟨.fail, _, d, rfl, rfl⟩
    | reset => exact .inr ⟨_, d, rfl, rfl⟩
    | okThenReset => exact .inr ⟨_, d.receive q.wireBytes, rfl, rfl⟩
    | deviceReset => exact ih s.deviceReset []

theorem shadowedWrite_ignoresDevice (reg : RegAddr) (v n : Nat) {ack fail : State → State} {k : State → Result}
    (hack : CommutesWithDevice ack) (hfail : CommutesWithDevice fail) (hk : IgnoresDevice k) :
    IgnoresDevice fun s => shadowedWrite reg v n ack fail s k := by
  intro s d
  have hissue (q : BusRequest) : (withDevice s d).issue q = withDevice (s.issue q) (d.forget q.reg.toNat) := rfl
  have hes : (withDevice s d).busEvents = s.busEvents := rfl
  obtain ⟨a, u, d', h, h'⟩ | ⟨u, d', h, h'⟩ := awaitAnswer_withDevice ⟨reg, BitVec.ofNat 16 v⟩
    (s.issue ⟨reg, BitVec.ofNat 16 v⟩) (d.forget reg.toNat) s.busEvents
  all_goals simp only [shadowedWrite, busWrite, hissue, hes, h, h']
  · cases a with
    | ok => exact hk.comp hack u d'
    | fail => exact (raise_ignoresDevice .busError n).comp hfail u d'
  · exact ⟨u, d', rfl, rfl⟩

theorem writePsc_ignoresDevice (j : TimerIndex) (p n : Nat) {k : State → Result} (hk : IgnoresDevice k) :
    IgnoresDevice fun s => writePsc j p n s k :=
  shadowedWrite_ignoresDevice _ _ _ (fun _ _ => rfl) (fun _ _ => rfl) hk

theorem writeArr_ignoresDevice (j : TimerIndex) (T n : Nat) {k : State → Result} (hk : IgnoresDevice k) :
    IgnoresDevice fun s => writeArr j T n s k :=
  shadowedWrite_ignoresDevice _ _ _ (fun _ _ => rfl) (fun _ _ => rfl) hk

theorem writePw_ignoresDevice (c : Channel) (v n : Nat) {k : State → Result} (hk : IgnoresDevice k) :
    IgnoresDevice fun s => writePw c v n s k :=
  shadowedWrite_ignoresDevice _ _ _ (fun _ _ => rfl) (fun _ _ => rfl) hk

theorem programTimer_ignoresDevice (c : Channel) (p T : Nat) (new : Claim) {k : State → Result} (hk : IgnoresDevice k) :
    IgnoresDevice fun s => programTimer c p T new s k :=
  (writePsc_ignoresDevice _ p 0 <| writeArr_ignoresDevice _ T 1 <| hk.comp (setReq_withDevice c new)).comp
    (setReq_withDevice c .unclaimed)

theorem rederivePw_ignoresDevice (c : Channel) {k : Nat → State → Result} (hk : ∀ n, IgnoresDevice (k n)) :
    IgnoresDevice fun s => rederivePw c s k := by
  intro s d
  simp only [rederivePw, channel_withDevice, timer_withDevice]
  cases (s.channel c).pct with
  | none => exact hk 2 s d
  | some P => exact writePw_ignoresDevice c _ 2 (hk 3) s d

/-- The checks of every command read PFR's registers only, and its writes and response follow from them. -/
theorem exec_ignoresDevice (i : Instr) : IgnoresDevice (exec i) := by
  intro s d
  cases i with
  | setFreq c F =>
    simp only [exec, execSetFreq, conflict_withDevice]
    split
    · exact raise_ignoresDevice _ _ s d
    cases resolve (freqOperand F) with
    | none => exact raise_ignoresDevice _ _ s d
    | some r =>
      dsimp only
      split
      · exact raise_ignoresDevice _ _ s d
      · exact programTimer_ignoresDevice c _ _ _ (rederivePw_ignoresDevice c fun _ => respond_ignoresDevice _ _ _) s d
  | getFreq c =>
    simp only [exec, execGetFreq, timer_withDevice]
    cases (s.timer (timerOf c)).psc <;> exact respond_ignoresDevice _ _ _ s d
  | setPeriod c n =>
    simp only [exec, execSetPeriod, conflict_withDevice]
    split
    · exact raise_ignoresDevice _ _ s d
    split
    · exact raise_ignoresDevice _ _ s d
    · exact (writeArr_ignoresDevice _ _ _ (respond_ignoresDevice _ _ _)).comp (setReq_withDevice c .unclaimed) s d
  | getPeriod c => exact respond_ignoresDevice _ _ _ s d
  | setPrescaler c n =>
    simp only [exec, execSetPrescaler, conflict_withDevice]
    split
    · exact raise_ignoresDevice _ _ s d
    split
    · exact raise_ignoresDevice _ _ s d
    · exact (writePsc_ignoresDevice _ _ _ (respond_ignoresDevice _ _ _)).comp (setReq_withDevice c .unclaimed) s d
  | getPrescaler c =>
    simp only [exec, execGetPrescaler, timer_withDevice]
    cases (s.timer (timerOf c)).psc <;> exact respond_ignoresDevice _ _ _ s d
  | setPw c v => exact writePw_ignoresDevice c _ _ ((respond_ignoresDevice _ _ _).comp (setPct_withDevice c none)) s d
  | getPw c =>
    simp only [exec, execGetPw, channel_withDevice]
    cases (s.channel c).pw <;> exact respond_ignoresDevice _ _ _ s d
  | setPwPct c P =>
    simp only [exec, execSetPwPct, timer_withDevice]
    split
    · exact raise_ignoresDevice _ _ s d
    · exact writePw_ignoresDevice c _ _ ((respond_ignoresDevice _ _ _).comp (setPct_withDevice c (some P))) s d
  | getPwPct c =>
    simp only [exec, execGetPwPct, channel_withDevice]
    cases (s.channel c).pct <;> exact respond_ignoresDevice _ _ _ s d
  | servoInit c =>
    simp only [exec, execServoInit, conflict_withDevice]
    split
    · exact raise_ignoresDevice _ _ s d
    · exact programTimer_ignoresDevice c _ _ _ ((respond_ignoresDevice _ _ _).comp (setPct_withDevice c none)) s d
  | servoAngle c A =>
    exact writePw_ignoresDevice c _ _ (((respond_ignoresDevice _ _ _).comp (setPct_withDevice c none)).comp
      (setAngle_withDevice c _)) s d
  | getAngle c =>
    simp only [exec, execGetAngle, channel_withDevice]
    cases (s.channel c).angle <;> exact respond_ignoresDevice _ _ _ s d
  | getSync c => exact respond_ignoresDevice _ _ _ s d

theorem runCommand_ignoresDevice (w : CommandWord) : IgnoresDevice (runCommand w) := by
  intro s d
  simp only [runCommand]
  cases decode w with
  | error e => exact (raise_ignoresDevice .illegal 0).comp accept_withDevice s d
  | ok i => exact (exec_ignoresDevice i).comp accept_withDevice s d

theorem takeEvent_ignoresDevice (e : HostEvent) (rest : List HostEvent) : IgnoresDevice (takeEvent e rest) := by
  intro s d
  have hrun (w : CommandWord) :
      SameButDevice (runCommand w { s with inbox := rest }) (runCommand w { withDevice s d with inbox := rest }) :=
    runCommand_ignoresDevice w { s with inbox := rest } d
  cases e with
  | command w => exact hrun w
  | commandThenReset w =>
    obtain ⟨t, d', h, h'⟩ := hrun w
    simp only [takeEvent, h, h']
    exact ⟨_, d', rfl, rfl⟩
  | reset => exact ⟨_, d, rfl, rfl⟩
  | deviceReset => exact ⟨_, [], rfl, rfl⟩

theorem step_withDevice {s t : State} (d : Memory) (ht : step s = .next t) :
    ∃ d', step (withDevice s d) = .next (withDevice t d') := by
  have hphase : (withDevice s d).phase = s.phase := rfl
  have hinbox : (withDevice s d).inbox = s.inbox := rfl
  rw [step] at ht ⊢
  rw [hphase, hinbox]
  cases hp : s.phase with
  | busy => simp [hp] at ht
  | idle =>
    cases hi : s.inbox with
    | nil =>
      obtain rfl : s = t := by simpa [hp, hi] using ht
      exact ⟨d, rfl⟩
    | cons e rest =>
      obtain ⟨t', d', h, h'⟩ := takeEvent_ignoresDevice e rest s d
      obtain rfl : t' = t := by simpa [hp, hi, h] using ht
      exact ⟨d', h'⟩

/-- Settles O28: each write of a command leaves in its register what its answer says and nothing else anew; nothing is known at reset;
and no check, response or answer reads the device. -/
theorem deviceFollowsAnswers : Obligations.DeviceFollowsAnswers :=
  ⟨fun _ _ _ hreset _ ht hout => exec_knownByLog hreset ht hout,
    fun _ _ => by simp [Memory.Admits, State.resetWith], fun _ _ d ht => step_withDevice d ht⟩

end Sys2Proof.Proofs.Device
end

section
/-! SUPPORT. Encoding (30_encoding.md): the opcode map against the legal field values, the decode checks in the order of R71, the
operands of the pseudo-instructions (R80), and what a response counts (R75). -/

namespace Sys2Proof.Proofs.Encoding

open Sys2Proof Sys2Proof.Machine Sys2Proof.Machine.Laws

/-! ## The opcode map -/

/-- The two opcode values the map leaves out are the reserved ones (R73, R77). -/
theorem opcodeOf_eq_none_iff (op : BitVec 4) : opcodeOf op = none ↔ op = 0x0 ∨ op = 0xF := by revert op; decide

/-- The map reads back the value it writes for an opcode (R73). -/
theorem code_of_opcodeOf {op : BitVec 4} {o : Opcode} (h : opcodeOf op = some o) : o.code = op := by
  have hall : ∀ op : BitVec 4, ∀ o ∈ opcodeOf op, o.code = op := by decide
  exact hall op o h

theorem opcodeOf_of_not_legalOpcode {f : Fields} (h : f.legalOpcode = false) : opcodeOf f.op = none := by
  rw [opcodeOf_eq_none_iff]
  simpa [Fields.legalOpcode, or_iff_not_imp_left] using h

theorem opcodeOf_of_legalOpcode {f : Fields} (h : f.legalOpcode = true) : ∃ o, opcodeOf f.op = some o := by
  rw [← Option.ne_none_iff_exists', Ne, opcodeOf_eq_none_iff, not_or]
  simpa [Fields.legalOpcode] using h

/-- `ZERO_OPERAND_OPS` lists the opcodes of format ZERO (R71, R73). -/
theorem code_mem_zeroOperandOps (o : Opcode) : o.code ∈ zeroOperandOps ↔ o.format = .zero := by cases o <;> decide

theorem legalOperand_iff {f : Fields} {o : Opcode} (ho : opcodeOf f.op = some o) :
    f.legalOperand = true ↔ (o.format = .zero → f.opd = 0) := by
  rw [← code_mem_zeroOperandOps, code_of_opcodeOf ho]
  simp [Fields.legalOperand, or_iff_not_imp_left]

/-! ## The command an opcode makes -/

@[simp] theorem opcode_instr (o : Opcode) (c : Channel) (opd : Operand) : (o.instr c opd).opcode = o := by cases o <;> rfl

@[simp] theorem channel_instr (o : Opcode) (c : Channel) (opd : Operand) : (o.instr c opd).channel = c := by cases o <;> rfl

theorem operand_instr {o : Opcode} (c : Channel) {opd : Operand} (h : o.format = .zero → opd = 0) :
    (o.instr c opd).operand = opd := by
  cases o with
  | getFreq | getPeriod | getPrescaler | getPw | getPwPct | servoInit | getAngle | getSync => exact (h rfl).symm
  | setFreq | setPeriod | setPrescaler | setPw | setPwPct | servoAngle => rfl

/-! ## The decode checks -/

theorem decodeFields_reservedOpcode {f : Fields} (hop : f.legalOpcode = false) : decodeFields f = .error .reservedOpcode := by
  rw [decodeFields, opcodeOf_of_not_legalOpcode hop]

section Checks

variable {f : Fields} (hop : f.legalOpcode = true)
include hop

theorem decodeFields_noSuchChannel (hch : f.legalChannel = false) : decodeFields f = .error .noSuchChannel := by
  obtain ⟨o, ho⟩ := opcodeOf_of_legalOpcode hop
  have hch : ¬ f.ch.toNat < 20 := of_decide_eq_false hch
  simp only [decodeFields, ho, dif_neg hch]

variable (hch : f.legalChannel = true)
include hch

theorem decodeFields_reservedBits (hrsv : f.legalReserved = false) : decodeFields f = .error .reservedBits := by
  obtain ⟨o, ho⟩ := opcodeOf_of_legalOpcode hop
  have hch : f.ch.toNat < 20 := of_decide_eq_true hch
  have hrsv : f.rsv ≠ 0 := beq_eq_false_iff_ne.1 hrsv
  simp only [decodeFields, ho, dif_pos hch, if_pos hrsv]

variable (hrsv : f.legalReserved = true)
include hrsv

theorem decodeFields_nonzeroOperand (hopd : f.legalOperand = false) : decodeFields f = .error .nonzeroOperand := by
  obtain ⟨o, ho⟩ := opcodeOf_of_legalOpcode hop
  have hch : f.ch.toNat < 20 := of_decide_eq_true hch
  have hrsv : f.rsv = 0 := beq_iff_eq.1 hrsv
  have hopd : o.format = .zero ∧ f.opd ≠ 0 := by
    simpa [hopd] using legalOperand_iff ho
  simp only [decodeFields, ho, dif_pos hch, if_neg (not_not.2 hrsv), if_pos hopd]

/-- Fields that pass every check are those of the command they decode to. -/
theorem decodeFields_ok (hopd : f.legalOperand = true) : ∃ i, decodeFields f = .ok i ∧ i.fields = f := by
  obtain ⟨o, ho⟩ := opcodeOf_of_legalOpcode hop
  have hch : f.ch.toNat < 20 := of_decide_eq_true hch
  have hrsv : f.rsv = 0 := beq_iff_eq.1 hrsv
  have hopd : o.format = .zero → f.opd = 0 := (legalOperand_iff ho).1 hopd
  refine ⟨o.instr ⟨f.ch.toNat, hch⟩ f.opd, ?_, ?_⟩
  · simpa [decodeFields, ho, hch, hrsv] using hopd
  · simp [Instr.fields, operand_instr _ hopd, code_of_opcodeOf ho, ← hrsv]

end Checks

/-- A word that does not decode is taken off the port and answered ILLEGAL, and nothing else changes (R71). -/
theorem step_of_decode_error {s : State} {w : CommandWord} {rest : List HostEvent} {e : IllegalReason}
    (hphase : s.phase = .idle) (hinbox : s.inbox = .command w :: rest) (hw : decode w = .error e) :
    step s = .next { s with inbox := rest, responses := s.responses ++ [responseWord .illegal 0 0] } := by
  simp [step, hphase, hinbox, takeEvent, runCommand, hw, State.accept, State.deliver]

/-- Settles O5: each test of R71 by the lemma on the fields it reads, and the step of a word that fails one. -/
theorem decodeChecksInOrder : Obligations.DecodeChecksInOrder := by
  refine ⟨fun w => ⟨decodeFields_reservedOpcode, decodeFields_noSuchChannel, decodeFields_reservedBits,
    decodeFields_nonzeroOperand, fun h => ?_⟩, fun s w rest e hphase hinbox hw => ?_⟩
  · simp only [Fields.wellFormed, Bool.and_eq_true] at h
    obtain ⟨⟨⟨hop, hch⟩, hrsv⟩, hopd⟩ := h
    exact decodeFields_ok hop hch hrsv hopd
  · have hword : responseWord .illegal 0 0 = 0x4000000000000000 := by decide
    rw [step_of_decode_error hphase hinbox hw, hword]

/-! ## Pseudo-instructions -/

/-- An integer part of 32 bits fills an unsigned operand with 16 fraction bits exactly (R74). -/
theorem toNat_ofInt_mul_65536 {n : Int} (h0 : 0 ≤ n) (h1 : n < 2 ^ 32) :
    ((BitVec.ofInt 48 (n * 65536)).toNat : Int) = n * 65536 := by
  rw [BitVec.toNat_ofInt]; omega

/-- A signed integer part of 40 bits fills a signed operand with 8 fraction bits exactly (R74). -/
theorem toInt_ofInt_mul_256 {d : Int} (h0 : -2 ^ 39 ≤ d) (h1 : d < 2 ^ 39) : (BitVec.ofInt 48 (d * 256)).toInt = d * 256 :=
  BitVec.toInt_ofInt_eq_self (by decide) (by omega) (by omega)

/-- Settles O7: within the condition of R80 the operand holds the number exactly, and outside it there is no expansion. -/
theorem pseudoInstructions : Obligations.PseudoInstructions := by
  refine fun c n => ⟨fun h0 h1 => ⟨_, toNat_ofInt_mul_65536 h0 h1, if_pos ⟨h0, h1⟩, if_pos ⟨h0, h1⟩⟩, fun h => ?_,
    fun h0 h1 => ⟨_, toInt_ofInt_mul_256 h0 h1, if_pos ⟨h0, h1⟩⟩, fun h => if_neg (by omega)⟩
  have hn : ¬ (0 ≤ n ∧ n < 2 ^ 32) := by omega
  exact ⟨if_neg hn, if_neg hn⟩

/-! ## What a response counts -/

/-- Since `s`, the bus log has grown by records of which `n` are answered `OK`. -/
def Acknowledged (s t : State) (n : Nat) : Prop :=
  ∃ log, t.busLog = s.busLog ++ log ∧ log.countP (fun b => b.answer = some .ok) = n

/-- What R75 and R200 say of the response `r` to a command that led from `s` to `t`. -/
def Accounts (s t : State) (r : ResponseWord) : Prop :=
  (responseStatus r).toNat ≤ 5 ∧ responseReserved r = 0 ∧ Acknowledged s t (responseWrites r).toNat ∧
    (responseWrites r).toNat ≤ 3 ∧ (responseStatus r ≠ 0 → responseResult r = 0)

/-- No response since `s`, and `n` writes acknowledged: what holds while a command runs. -/
def Running (s t : State) (n : Nat) : Prop := t.responses = s.responses ∧ Acknowledged s t n

/-- If `t` answers with one response more than `s`, the response accounts for the writes. -/
def EndAccounts (s t : State) : Prop := ∀ r, t.responses = s.responses ++ [r] → Accounts s t r

section Count

variable {s t u v : State} {n : Nat} {q : BusRequest}

theorem Acknowledged.congr (h : Acknowledged s u n) (hlog : t.busLog = u.busLog) : Acknowledged s t n := by
  rwa [Acknowledged, hlog]

/-- The record of an answer counts where the answer is `OK`. -/
theorem Acknowledged.answered (h : Acknowledged s u n) (q : BusRequest) (a : BusAnswer) (es : List BusEvent) :
    Acknowledged s (u.answered q a es) (if a = .ok then n + 1 else n) := by
  obtain ⟨log, hl, rfl⟩ := h
  refine ⟨log ++ [⟨q, some a⟩], by rw [answered_busLog, hl, List.append_assoc], ?_⟩
  cases a <;> simp

theorem Running.refl (s : State) : Running s s 0 := ⟨rfl, [], by simp, rfl⟩

theorem Running.congr (h : Running s u n) (hresp : t.responses = u.responses) (hlog : t.busLog = u.busLog) :
    Running s t n := by
  obtain ⟨hr, hn⟩ := h
  exact ⟨hresp.trans hr, hn.congr hlog⟩

theorem Running.neutral (h : Running s u n) {f : State → State} (hf : Neutral f) : Running s (f u) n :=
  h.congr (hf.responses u) (hf.busLog u)

theorem Running.waiting (h : Running s u n) (hv : Waiting u q v) : Running s v n := by
  obtain rfl | ⟨rfl, -⟩ := hv <;> exact h.congr rfl rfl

theorem onAnswer_responses (k : Kind) (a : BusAnswer) (s : State) : (Shadows.onAnswer k a s).responses = s.responses := by
  cases a <;> cases k <;> rfl

theorem Running.onAnswer (h : Running s u n) (k : Kind) (a : BusAnswer) (es : List BusEvent) :
    Running s (Shadows.onAnswer k a (u.answered k.request a es)) (if a = .ok then n + 1 else n) := by
  obtain ⟨hr, hn⟩ := h
  exact ⟨(onAnswer_responses k a _).trans hr, (hn.answered k.request a es).congr (Shadows.onAnswer_busLog k a _)⟩

/-- A command that ends without a response has none that could miscount. -/
theorem EndAccounts.of_responses_eq (h : t.responses = s.responses) : EndAccounts s t := by
  intro r hr
  simp [h] at hr

theorem code_toNat_le (st : Status) : st.code.toNat ≤ 5 := by cases st <;> decide

theorem code_ne_zero {st : Status} (h : st.code ≠ 0) : st ≠ .ok := by rintro rfl; exact h rfl

/-- A response made with the number of acknowledged writes, and with no result unless OK. -/
theorem Running.deliver (h : Running s u n) (hn : n ≤ 3) (st : Status) {res : Operand} (hres : st ≠ .ok → res = 0) :
    EndAccounts s (u.deliver (responseWord st n res)) := by
  obtain ⟨hresp, hack⟩ := h
  intro r hr
  obtain rfl : responseWord st n res = r := by simpa [hresp] using hr
  obtain ⟨hst, hrsv, hwrites, hresult⟩ := response_fields st n res hn
  rw [Accounts, hst, hrsv, hwrites, hresult]
  exact ⟨code_toNat_le st, rfl, hack.congr rfl, hn, fun h => hres (code_ne_zero h)⟩

end Count

/-- The response to a command counts its acknowledged writes: before each write, those acknowledged and those left make up the
command's list, which has at most three. -/
theorem exec_endAccounts {i : Instr} {s t : State} (ht : exec i s = .next t) : EndAccounts s t := by
  cases exec_shape i s with
  | answered st r h _ hr =>
    obtain rfl : s.deliver _ = t := by simpa [h] using ht
    exact (Running.refl s).deliver (Nat.zero_le 3) st hr
  | writes pre post ws r hpre hpost _ hlen _ h =>
    refine runWrites_elim (Q := fun ws' n u => n + ws'.length = ws.length ∧ Running s u n) (fun n u hQ hu => ?_)
      (fun w ws' n u v es hQ hv _ => ?_) (fun w ws' n u v es hQ hv _ => ?_)
      (fun w ws' n u v hQ hv => ?_) (fun w ws' n u v es hQ hv _ _ => ?_) (fun w ws' n u v es hQ hv _ _ => ?_)
      ws 0 (pre s) ⟨Nat.zero_add _, (Running.refl s).neutral hpre⟩ (h.symm.trans ht)
    all_goals obtain ⟨hcount, hrun⟩ := hQ
    · obtain rfl : (post u).deliver _ = t := by simpa using hu
      obtain rfl : n = ws.length := hcount
      exact (hrun.neutral hpost).deliver hlen.2 .ok (absurd rfl)
    · rw [List.length_cons] at hcount
      exact ⟨by omega, ((hrun.waiting hv).onAnswer w.kind .ok es).neutral w.neutral⟩
    · exact ((hrun.waiting hv).onAnswer w.kind .fail es).deliver (n := n) (by omega) .busError fun _ => rfl
    · exact .of_responses_eq (hrun.waiting hv).1
    · exact .of_responses_eq (hrun.waiting hv).1
    · exact .of_responses_eq (hrun.waiting hv).1

theorem runCommand_endAccounts {w : CommandWord} {s t : State} (ht : runCommand w s = .next t) : EndAccounts s t := by
  rw [runCommand] at ht
  cases hw : decode w with
  | ok i =>
    rw [hw] at ht
    exact exec_endAccounts (s := s.accept) ht
  | error e =>
    obtain rfl : s.accept.deliver (responseWord .illegal 0 0) = t := by simpa [hw] using ht
    exact (Running.refl s.accept).deliver (Nat.zero_le 3) .illegal fun _ => rfl

/-- Settles O24: a command's response is made with the number of its writes acknowledged so far, at most three, and an ILLEGAL word
has none. -/
theorem responsesCountAcknowledgedWrites : Obligations.ResponsesCountAcknowledgedWrites :=
  fun _ _ _ r ht hr => runCommand_endAccounts ht r hr

end Sys2Proof.Proofs.Encoding
end

section
/-! SUPPORT. Commands on an answering Bus: the state a command has reached after some of its writes, what each answer makes of it, and the
response that ends it (00_scope.md R10, 10_state.md R24, R25). A command's outcome is read off its writes in order. -/

namespace Sys2Proof.Proofs.Answers

open Sys2Proof Sys2Proof.Machine Sys2Proof.Machine.Laws

/-! ## What a command has reached, and how it ends -/

/-- A command on channel `c` that began in `s` has reached `u`, its writes so far being `log`: the Bus still has `es` to say, the timer
of `c` stands at `timer` and `c` itself at `channel`, and nothing else of PFR has changed. -/
structure Reached (s u : State) (c : Channel) (log : List BusRecord) (es : List BusEvent) (timer : TimerRegs)
    (channel : ChannelRegs) : Prop where
  outstanding : log ≠ [] → u.outstanding = none
  busLog : u.busLog = s.busLog ++ log
  busEvents : u.busEvents = es
  responses : u.responses = s.responses
  inbox : u.inbox = s.inbox
  conflictCheck : u.conflictCheck = s.conflictCheck
  device : ∀ a, u.device.read a = readAfter s.device log a
  timer : u.timer (timerOf c) = timer
  channel : u.channel c = channel
  same : SameExcept s u (timerOf c) c

/-- The outcome `o` of a command on channel `c` in the state `s`: it answers `r` after the writes `log`, with the timer of `c` at
`timer`, `c` at `channel`, and nothing else of PFR changed. -/
def EndsWith (o : Result) (s : State) (c : Channel) (log : List BusRecord) (es : List BusEvent) (r : ResponseWord)
    (timer : TimerRegs) (channel : ChannelRegs) : Prop :=
  ∃ t, o = .next t ∧ Ended s t log es r ∧ t.timer (timerOf c) = timer ∧ t.channel c = channel ∧ SameExcept s t (timerOf c) c

section Reached

variable {s u : State} {c : Channel} {log : List BusRecord} {es : List BusEvent} {timer : TimerRegs} {channel : ChannelRegs}

theorem Reached.start (hes : s.busEvents = es) : Reached s s c [] es (s.timer (timerOf c)) (s.channel c) where
  outstanding h := absurd rfl h
  busLog := (List.append_nil _).symm
  busEvents := hes
  responses := rfl
  inbox := rfl
  conflictCheck := rfl
  device _ := rfl
  timer := rfl
  channel := rfl
  same := ⟨fun _ _ => rfl, fun _ _ => rfl⟩

theorem Reached.modTimer (h : Reached s u c log es timer channel) (f : TimerRegs → TimerRegs) :
    Reached s (u.modTimer (timerOf c) f) c log es (f timer) channel :=
  { h with
    timer := by rw [timer_modTimer_same, h.timer]
    same := ⟨fun i hi => (timer_modTimer_ne u f hi).trans (h.same.1 i hi), h.same.2⟩ }

theorem Reached.modChannel (h : Reached s u c log es timer channel) (f : ChannelRegs → ChannelRegs) :
    Reached s (u.modChannel c f) c log es timer (f channel) :=
  { h with
    channel := by rw [channel_modChannel_same, h.channel]
    same := ⟨h.same.1, fun c' hc' => (channel_modChannel_ne u f hc').trans (h.same.2 c' hc')⟩ }

theorem Reached.setReq (h : Reached s u c log es timer channel) (x : Claim) :
    Reached s (u.setReq c x) c log es timer { channel with req := x } := h.modChannel _

/-- One more write, answered `a`. -/
theorem Reached.answered {e : BusEvent} (h : Reached s u c log (e :: es) timer channel) (q : BusRequest) (a : BusAnswer) :
    Reached s ((u.issue q).answered q a es) c (log ++ [⟨q, some a⟩]) es timer channel :=
  { h with
    outstanding := fun _ => rfl
    busLog := by rw [answered_busLog, issue_busLog, h.busLog, List.append_assoc]
    busEvents := rfl
    device := fun x => by
      rw [read_issue_answered, Device.readAfter_append_singleton, h.device]
      simp only [Option.some.injEq] }

/-- The response ends a command that has had a write answered. -/
theorem Reached.respond (h : Reached s u c log es timer channel) (hlog : log ≠ []) (st : Status) (n : Nat) (res : Operand) :
    EndsWith (respond st n res u) s c log es (responseWord st n res) timer channel :=
  ⟨_, rfl,
    { h with
      phase := rfl
      outstanding := h.outstanding hlog
      responses := by rw [deliver_responses, h.responses] },
    h.timer, h.channel, h.same⟩

/-! ## The three register writes -/

theorem Reached.shadowedWrite_fail (h : Reached s u c log (.fail :: es) timer channel) (reg : RegAddr) (v n : Nat)
    (ack : State → State) {fail : State → State} {timer' : TimerRegs} {channel' : ChannelRegs} (k : State → Result)
    (hfail : ∀ {u}, Reached s u c (log ++ [wrote reg v .fail]) es timer channel →
      Reached s (fail u) c (log ++ [wrote reg v .fail]) es timer' channel') :
    EndsWith (shadowedWrite reg v n ack fail u k) s c (log ++ [wrote reg v .fail]) es (responseWord .busError n 0) timer'
      channel' := by
  rw [Laws.shadowedWrite_fail _ _ _ _ _ _ h.busEvents]
  exact (hfail (h.answered _ .fail)).respond (by simp) .busError n 0

theorem Reached.writePsc_ok (h : Reached s u c log (.ok :: es) timer channel) (p : Nat) :
    ∃ v, (∀ n k, writePsc (timerOf c) p n u k = k v) ∧
      Reached s v c (log ++ [wrote (pscReg (timerOf c)) (p - 1) .ok]) es (timer.ackPsc p) channel :=
  ⟨_, fun _ k => shadowedWrite_ok _ _ _ _ _ k h.busEvents, (h.answered _ .ok).modTimer _⟩

theorem Reached.writePsc_fail (h : Reached s u c log (.fail :: es) timer channel) (p n : Nat) (k : State → Result) :
    EndsWith (writePsc (timerOf c) p n u k) s c (log ++ [wrote (pscReg (timerOf c)) (p - 1) .fail]) es
      (responseWord .busError n 0) timer.failPsc channel :=
  h.shadowedWrite_fail _ _ n _ k fun hu => hu.modTimer _

theorem Reached.writeArr_ok (h : Reached s u c log (.ok :: es) timer channel) (T : Nat) :
    ∃ v, (∀ n k, writeArr (timerOf c) T n u k = k v) ∧
      Reached s v c (log ++ [wrote (arrReg (timerOf c)) T .ok]) es (timer.ackArr T) channel :=
  ⟨_, fun _ k => shadowedWrite_ok _ _ _ _ _ k h.busEvents, (h.answered _ .ok).modTimer _⟩

theorem Reached.writeArr_fail (h : Reached s u c log (.fail :: es) timer channel) (T n : Nat) (k : State → Result) :
    EndsWith (writeArr (timerOf c) T n u k) s c (log ++ [wrote (arrReg (timerOf c)) T .fail]) es
      (responseWord .busError n 0) timer.failArr channel :=
  h.shadowedWrite_fail _ _ n _ k fun hu => hu.modTimer _

theorem Reached.writePw_ok (h : Reached s u c log (.ok :: es) timer channel) (w : Nat) :
    ∃ v, (∀ n k, writePw c w n u k = k v) ∧
      Reached s v c (log ++ [wrote (pwReg c) w .ok]) es timer (channel.ackPw w) :=
  ⟨_, fun _ k => shadowedWrite_ok _ _ _ _ _ k h.busEvents, (h.answered _ .ok).modChannel _⟩

theorem Reached.writePw_fail (h : Reached s u c log (.fail :: es) timer channel) (w n : Nat) (k : State → Result) :
    EndsWith (writePw c w n u k) s c (log ++ [wrote (pwReg c) w .fail]) es (responseWord .busError n 0) timer
      channel.failPw :=
  h.shadowedWrite_fail _ _ n _ k fun hu => hu.modChannel _

/-! ## Timer programming (40_timer.md R104) -/

theorem Reached.programTimer_ok (h : Reached s u c log (.ok :: .ok :: es) timer channel) (p T : Nat) (new : Claim) :
    ∃ v, (∀ k, programTimer c p T new u k = k v) ∧
      Reached s v c (log ++ [wrote (pscReg (timerOf c)) (p - 1) .ok] ++ [wrote (arrReg (timerOf c)) T .ok]) es
        ⟨some (BitVec.ofNat 16 p), BitVec.ofNat 16 T, false, false⟩ { channel with req := new } := by
  obtain ⟨v, hpsc, hv⟩ := (h.setReq .unclaimed).writePsc_ok p
  obtain ⟨w, harr, hw⟩ := hv.writeArr_ok T
  exact ⟨_, fun k => (hpsc 0 _).trans (harr 1 _), hw.setReq new⟩

/-- A failed first write ends the programming with the claim withdrawn. -/
theorem Reached.programTimer_psc_fail (h : Reached s u c log (.fail :: es) timer channel) (p T : Nat) (new : Claim)
    (k : State → Result) :
    EndsWith (programTimer c p T new u k) s c (log ++ [wrote (pscReg (timerOf c)) (p - 1) .fail]) es
      (responseWord .busError 0 0) timer.failPsc { channel with req := .unclaimed } :=
  (h.setReq .unclaimed).writePsc_fail p 0 _

/-- A failed second write leaves the divider written and the claim withdrawn. -/
theorem Reached.programTimer_arr_fail (h : Reached s u c log (.ok :: .fail :: es) timer channel) (p T : Nat) (new : Claim)
    (k : State → Result) :
    EndsWith (programTimer c p T new u k) s c
      (log ++ [wrote (pscReg (timerOf c)) (p - 1) .ok] ++ [wrote (arrReg (timerOf c)) T .fail]) es
      (responseWord .busError 1 0) (timer.ackPsc p).failArr { channel with req := .unclaimed } := by
  obtain ⟨v, hpsc, hv⟩ := (h.setReq .unclaimed).writePsc_ok p
  rw [programTimer, hpsc]
  exact hv.writeArr_fail T 1 _

end Reached

end Sys2Proof.Proofs.Answers
end

section
/-! SUPPORT. The timer family (40_timer.md): each command's checks in the order of its rule, and what it answers once they are passed. -/

namespace Sys2Proof.Proofs.Timer

open Sys2Proof Sys2Proof.Machine Sys2Proof.Machine.Laws Sys2Proof.Proofs.Answers

/-! ## The channel map and the getters -/

/-- Settles O30: the branches of `timerOf` are the ranges of R100. -/
theorem channelToTimerMap : Obligations.ChannelToTimerMap := by
  intro c
  unfold timerOf
  refine ⟨fun h => ?_, fun h => ?_, fun h => ?_, fun h => ?_⟩
  · rw [dif_pos (by omega)]
  · rw [dif_neg (by omega), if_pos (by omega)]
  · rw [dif_neg (by omega), if_neg (by omega), if_pos h]
  · rw [dif_neg (by omega), if_neg (by omega), if_neg (by omega)]

/-- Settles O36: the two cases of the divider's shadow. -/
theorem getFreqReadsAchieved : Obligations.GetFreqReadsAchieved := by
  refine fun s c => ⟨fun h => ?_, fun p h => ?_⟩
  · simp only [exec, execGetFreq, h, raise_eq, answeredOnly_eq]
  · simp only [exec, execGetFreq, h, respond_eq, answeredOnly_eq, achievedUq, Config.freqK, Config.clockHz, Config.freqScale]
    rfl

/-- Settles O38: GET_PERIOD has no other case. -/
theorem getPeriodReadsPeriod : Obligations.GetPeriodReadsPeriod := by
  intro s c T h
  rw [exec, execGetPeriod, h, respond_eq, answeredOnly_eq]

/-- Settles O40: the two cases of the divider's shadow. -/
theorem getPrescalerReadsDivider : Obligations.GetPrescalerReadsDivider := by
  refine fun s c => ⟨fun h => ?_, fun p h => ?_⟩
  · simp only [exec, execGetPrescaler, h, raise_eq, answeredOnly_eq]
  · simp only [exec, execGetPrescaler, h, respond_eq, answeredOnly_eq]

/-! ## SET_PERIOD and SET_PRESCALER -/

section RawWrites

variable {s : State} {c : Channel} {n : Operand}

theorem uint_rejected (h : n.toNat = 0 ∨ 65535 < n.toNat) : uintOperand n < 1 ∨ uintOperand n > Config.regMax := by
  simp only [uintOperand, Config.regMax]; omega

theorem uint_accepted (h1 : 1 ≤ n.toNat) (h2 : n.toNat ≤ 65535) : ¬ (uintOperand n < 1 ∨ uintOperand n > Config.regMax) := by
  simp only [uintOperand, Config.regMax]; omega

theorem exec_setPeriod_range (h : n.toNat = 0 ∨ 65535 < n.toNat) : exec (.setPeriod c n) s = raise .rangeError 0 s :=
  if_pos (uint_rejected h)

theorem exec_setPrescaler_range (h : n.toNat = 0 ∨ 65535 < n.toNat) :
    exec (.setPrescaler c n) s = raise .rangeError 0 s := if_pos (uint_rejected h)

variable (h1 : 1 ≤ n.toNat) (h2 : n.toNat ≤ 65535)
include h1 h2

theorem exec_setPeriod_conflict (hb : s.Blocked c .unclaimed) : exec (.setPeriod c n) s = raise .conflictError 0 s := by
  simp only [exec, execSetPeriod, if_neg (uint_accepted h1 h2), if_pos (blocked hb)]

theorem exec_setPrescaler_conflict (hb : s.Blocked c .unclaimed) :
    exec (.setPrescaler c n) s = raise .conflictError 0 s := by
  simp only [exec, execSetPrescaler, if_neg (uint_accepted h1 h2), if_pos (blocked hb)]

/-- Past its checks, SET_PERIOD is one write and the response (R112). -/
theorem exec_setPeriod_write (hb : ¬ s.Blocked c .unclaimed) :
    exec (.setPeriod c n) s = writeArr (timerOf c) n.toNat 0 (s.setReq c .unclaimed) fun u => respond .ok 1 n u := by
  simp only [exec, execSetPeriod, if_neg (uint_accepted h1 h2), not_blocked hb, Bool.false_eq_true, if_false]
  rw [uintOperand, zext48_self h2]

/-- Past its checks, SET_PRESCALER is one write and the response (R114). -/
theorem exec_setPrescaler_write (hb : ¬ s.Blocked c .unclaimed) :
    exec (.setPrescaler c n) s = writePsc (timerOf c) n.toNat 0 (s.setReq c .unclaimed) fun u => respond .ok 1 n u := by
  simp only [exec, execSetPrescaler, if_neg (uint_accepted h1 h2), not_blocked hb, Bool.false_eq_true, if_false]
  rw [uintOperand, zext48_self h2]

end RawWrites

/-- Settles O37: the two rejections, and the two answers to the one period write with the claim already withdrawn. -/
theorem setPeriodWritesPeriod : Obligations.SetPeriodWritesPeriod := by
  refine fun s c n es => ⟨exec_setPeriod_range, exec_setPeriod_conflict, fun h1 h2 hb hes => ?_, fun h1 h2 hb hes => ?_⟩
  all_goals
    rw [exec_setPeriod_write h1 h2 hb]
    have hstart := (Reached.start (c := c) hes).setReq .unclaimed
  · obtain ⟨v, hk, hv⟩ := hstart.writeArr_ok n.toNat
    rw [hk, ← ofNat16_self]
    exact hv.respond (by simp) .ok 1 n
  · exact hstart.writeArr_fail n.toNat 0 _

/-- Settles O39: the two rejections, and the two answers to the one prescaler write with the claim already withdrawn. -/
theorem setPrescalerWritesDivider : Obligations.SetPrescalerWritesDivider := by
  refine fun s c n es =>
    ⟨exec_setPrescaler_range, exec_setPrescaler_conflict, fun h1 h2 hb hes => ?_, fun h1 h2 hb hes => ?_⟩
  all_goals
    rw [exec_setPrescaler_write h1 h2 hb]
    have hstart := (Reached.start (c := c) hes).setReq .unclaimed
  · obtain ⟨v, hk, hv⟩ := hstart.writePsc_ok n.toNat
    rw [hk, ← ofNat16_self]
    exact hv.respond (by simp) .ok 1 n
  · exact hstart.writePsc_fail n.toNat 0 _

/-! ## SET_FREQ -/

section SetFreq

variable {s u : State} {c : Channel} {F : Operand} {r : Candidate}

theorem rederivePw_none (h : (u.channel c).pct = none) (k : Nat → State → Result) : rederivePw c u k = k 2 u := by
  simp only [rederivePw, h]

/-- With a percentage standing, the third write is its share of the period just written (R110). -/
theorem rederivePw_some {P : Operand} {T : Nat} (h : (u.channel c).pct = some P)
    (hT : (u.timer (timerOf c)).arr = BitVec.ofNat 16 T) (hle : T ≤ 65535) (k : Nat → State → Result) :
    rederivePw c u k = writePw c (rne (P.toNat * T) (100 * 65536)) 2 u (k 3) := by
  have hval : (BitVec.ofNat 16 T).toNat = T := Nat.mod_eq_of_lt (Nat.lt_succ_of_le hle)
  simp only [rederivePw, h, hT, pctCount, hval, Config.pctScale, Nat.reducePow]

theorem exec_setFreq_range (h : F = 0 ∨ resolve F.toNat = none) : exec (.setFreq c F) s = raise .rangeError 0 s := by
  obtain rfl | h := h
  · rfl
  · simp only [exec, execSetFreq, freqOperand, h, ite_self]

variable (hF : F ≠ 0) (hr : resolve F.toNat = some r)
include hF hr

theorem exec_setFreq_conflict (hb : s.Blocked c (.freq F)) : exec (.setFreq c F) s = raise .conflictError 0 s := by
  have hr' : resolve (freqOperand F) = some r := hr
  simp only [exec, execSetFreq, if_neg (freqOperand_ne_zero hF), hr', if_pos (blocked hb)]

/-- Past its checks, SET_FREQ programs the timer, re-derives the width and responds (R107). -/
theorem exec_setFreq_program (hb : ¬ s.Blocked c (.freq F)) :
    exec (.setFreq c F) s = programTimer c r.p r.T (.freq F) s fun u =>
      rederivePw c u fun n v => respond .ok n (pairResult r.p r.T) v := by
  have hr' : resolve (freqOperand F) = some r := hr
  simp only [exec, execSetFreq, if_neg (freqOperand_ne_zero hF), hr', not_blocked hb, Bool.false_eq_true, if_false]

end SetFreq

/-- Settles O35: the two rejections, then the five answered ends in the order of the writes. -/
theorem setFreqProgramsTimer : Obligations.SetFreqProgramsTimer := by
  refine fun s c F => ⟨exec_setFreq_range, fun hF ⟨r, hr⟩ => exec_setFreq_conflict hF hr, fun r es hF hr hb => ?_⟩
  obtain ⟨-, -, -, hT⟩ := resolve_bounds hr
  rw [exec_setFreq_program hF hr hb]
  refine ⟨fun hp hes => ?_, fun P hp hes => ?_, fun hes => ?_, fun hes => ?_, fun P hp hes => ?_⟩
  · obtain ⟨u, hk, hu⟩ := (Reached.start hes).programTimer_ok r.p r.T (.freq F)
    rw [hk, rederivePw_none (by rw [hu.channel]; exact hp)]
    exact hu.respond (by simp) .ok 2 _
  · obtain ⟨u, hk, hu⟩ := (Reached.start hes).programTimer_ok r.p r.T (.freq F)
    obtain ⟨v, hpw, hv⟩ := hu.writePw_ok (rne (P.toNat * r.T) (100 * 65536))
    rw [hk, rederivePw_some (by rw [hu.channel]; exact hp) (by rw [hu.timer]) hT, hpw]
    exact hv.respond (by simp) .ok 3 _
  · exact (Reached.start hes).programTimer_psc_fail r.p r.T _ _
  · exact (Reached.start hes).programTimer_arr_fail r.p r.T _ _
  · obtain ⟨u, hk, hu⟩ := (Reached.start hes).programTimer_ok r.p r.T (.freq F)
    rw [hk, rederivePw_some (by rw [hu.channel]; exact hp) (by rw [hu.timer]) hT]
    exact hu.writePw_fail _ 2 _

end Sys2Proof.Proofs.Timer
end

section
/-! SUPPORT. The frequency resolver (40_timer.md R102): its integer square root, its window, its error, and its loop as the library's
first minimum of a list. -/

namespace Sys2Proof.Proofs.Resolver

open Sys2Proof Sys2Proof.Machine Sys2Proof.Machine.Laws

/-! ## The integer square root (00_scope.md R13) -/

/-- The search has found the root when its bits run out: `r` squares to at most `n`, and `r` with the next higher bit does not. -/
theorem isqrtFrom_eq_sqrt (n b r : Nat) (hle : r * r ≤ n) (hlt : n < (r + 2 ^ b) * (r + 2 ^ b)) :
    isqrtFrom n b r = Nat.sqrt n := by
  induction b generalizing r with
  | zero => exact Nat.eq_sqrt.2 ⟨hle, hlt⟩
  | succ b ih =>
    rw [isqrtFrom]
    split
    · next h => exact ih _ h (by rwa [Nat.add_assoc, ← Nat.two_mul, ← Nat.pow_succ'])
    · next h => exact ih r hle (Nat.lt_of_not_le h)

theorem isqrt_eq_sqrt (n : Nat) : isqrt n = Nat.sqrt n := by
  refine isqrtFrom_eq_sqrt n _ 0 (Nat.zero_le n) ?_
  rw [Nat.zero_add, ← Nat.pow_add]
  exact Nat.lt_log2_self.trans_le (Nat.pow_le_pow_right (by decide) (by omega))

/-! ## The window -/

theorem mem_window_iff {F : Nat} {c : Candidate} :
    c ∈ window F ↔ candidate F c.p = c ∧ firstDivider F ≤ c.p ∧ c.p < firstDivider F + 10 ∧ c.programmable := by
  simp only [window, List.mem_filter, List.mem_map, List.mem_range, Config.searchWidth]
  constructor
  · rintro ⟨⟨i, hi, rfl⟩, hprog⟩
    exact ⟨rfl, Nat.le_add_right _ _, Nat.add_lt_add_left hi _, hprog⟩
  · rintro ⟨hc, hle, hlt, hprog⟩
    exact ⟨⟨c.p - firstDivider F, by omega, by rw [Nat.add_sub_cancel' hle, hc]⟩, hprog⟩

theorem candidate_of_mem_window {F : Nat} {c : Candidate} (h : c ∈ window F) : candidate F c.p = c :=
  (mem_window_iff.1 h).1

/-- The dividers in the window are the programmable ones among the ten (R102). -/
theorem candidate_mem_window_iff {F p : Nat} :
    candidate F p ∈ window F ↔ firstDivider F ≤ p ∧ p < firstDivider F + 10 ∧
      1 ≤ (candidate F p).T ∧ (candidate F p).T ≤ 65535 ∧ p ≤ 65535 := by
  simp only [mem_window_iff, candidate, Candidate.programmable, Bool.and_eq_true, decide_eq_true_eq, and_assoc, true_and]
  rfl

theorem mk_mem_window_iff {F p T : Nat} : ⟨p, T⟩ ∈ window F ↔ candidate F p ∈ window F ∧ T = (candidate F p).T := by
  constructor
  · intro h
    have hc : candidate F p = ⟨p, T⟩ := candidate_of_mem_window h
    rw [hc]
    exact ⟨h, rfl⟩
  · rintro ⟨h, rfl⟩
    exact h

theorem forall_mem_window_iff {F : Nat} {P : Candidate → Prop} :
    (∀ c ∈ window F, P c) ↔ ∀ q, candidate F q ∈ window F → P (candidate F q) :=
  ⟨fun h q => h (candidate F q), fun h c hc => by simpa only [candidate_of_mem_window hc, hc, true_imp_iff] using h c.p⟩

/-- The loop takes the dividers in ascending order. -/
theorem window_pairwise (F : Nat) : (window F).Pairwise (·.p < ·.p) :=
  List.Pairwise.filter _ <| List.pairwise_map.2 <| List.pairwise_lt_range.imp fun {i j} (h : i < j) =>
    show firstDivider F + i < firstDivider F + j from Nat.add_lt_add_left h _

/-- Of two candidates in a window, the one of the smaller divider comes first. -/
theorem idxOf_window_le_iff {F : Nat} {a b : Candidate} (ha : a ∈ window F) (hb : b ∈ window F) :
    (window F).idxOf a ≤ (window F).idxOf b ↔ a.p ≤ b.p := by
  have before {x y : Candidate} (hx : x ∈ window F) (hy : y ∈ window F)
      (h : (window F).idxOf x < (window F).idxOf y) : x.p < y.p := by
    simpa using List.pairwise_iff_getElem.1 (window_pairwise F) _ _ (List.idxOf_lt_length_iff.2 hx)
      (List.idxOf_lt_length_iff.2 hy) h
  constructor
  · intro h
    obtain h | h := h.lt_or_eq
    · exact (before ha hb h).le
    · rw [(List.idxOf_inj ha).1 h]
  · intro h
    by_contra hlt
    exact absurd (before hb ha (Nat.lt_of_not_le hlt)) (Nat.not_lt.2 h)

/-! ## The error -/

/-- The error of a candidate, `|CLOCK_HZ/(p*T) - F/2^16|` in exact rationals (R102). -/
def exactError (F : Nat) (c : Candidate) : ℚ := |(72000000 : ℚ) / (c.p * c.T) - (F : ℚ) / 65536|

/-- The model's integer error is the exact one times `2^16 * p * T`. -/
theorem exactError_eq {F : Nat} {c : Candidate} (hp : 1 ≤ c.p) (hT : 1 ≤ c.T) :
    exactError F c = c.scaledError F / (c.p * c.T) / 65536 := by
  have hp : (0 : ℚ) < c.p := by exact_mod_cast hp
  have hT : (0 : ℚ) < c.T := by exact_mod_cast hT
  have hscaled : (c.scaledError F : ℚ) = |(4718592000000 : ℚ) - F * c.p * c.T| := by
    simp [Candidate.scaledError, Config.freqK, Config.clockHz, Config.freqScale, Nat.cast_natAbs]
  have hfrac : (72000000 : ℚ) / (c.p * c.T) - F / 65536 = (4718592000000 - F * c.p * c.T) / (c.p * c.T) / 65536 := by
    field_simp
    ring
  rw [exactError, hfrac, hscaled, abs_div, abs_div, abs_of_pos (mul_pos hp hT), abs_of_pos (by norm_num : (0 : ℚ) < 65536)]

/-- The comparison in integers is the comparison of exact errors. -/
theorem better_iff {F : Nat} {a b : Candidate} (ha : a ∈ window F) (hb : b ∈ window F) :
    a.better F b = true ↔ exactError F a < exactError F b := by
  obtain ⟨hap, -, haT, -⟩ := mem_window ha
  obtain ⟨hbp, -, hbT, -⟩ := mem_window hb
  have ha0 : (0 : ℚ) < a.p * a.T := by exact_mod_cast Nat.mul_pos hap haT
  have hb0 : (0 : ℚ) < b.p * b.T := by exact_mod_cast Nat.mul_pos hbp hbT
  rw [Candidate.better, decide_eq_true_iff, exactError_eq hap haT, exactError_eq hbp hbT,
    div_lt_div_iff_of_pos_right (by norm_num), div_lt_div_iff₀ ha0 hb0]
  exact_mod_cast Iff.rfl

/-! ## The loop -/

/-- One turn of the loop, where the best so far and the candidate are in the window, is one turn of the library's search for the
first minimum. -/
theorem keepBest_eq_argAux {F : Nat} {best : Option Candidate} {c : Candidate} (hbest : ∀ b ∈ best, b ∈ window F)
    (hc : c ∈ window F) :
    keepBest F best c = List.argAux (fun b a => exactError F b < exactError F a) best c := by
  cases best with
  | none => rfl
  | some b => simp only [keepBest, List.argAux, better_iff hc (hbest b rfl)]

theorem foldl_keepBest_eq_argAux {F : Nat} (l : List Candidate) (best : Option Candidate) (hl : l ⊆ window F)
    (hbest : ∀ b ∈ best, b ∈ window F) :
    l.foldl (keepBest F) best = l.foldl (List.argAux fun b a => exactError F b < exactError F a) best := by
  induction l generalizing best with
  | nil => rfl
  | cons c l ih =>
    obtain ⟨hc, hl⟩ := List.cons_subset.1 hl
    rw [List.foldl_cons, List.foldl_cons, ← keepBest_eq_argAux hbest hc]
    refine ih _ hl fun b hb => ?_
    obtain hb | hb := foldl_keepBest_mem F [c] best b hb
    · rwa [List.mem_singleton.1 hb]
    · exact hbest b hb

/-- The resolver answers the first candidate of the window whose exact error is least. -/
theorem resolve_eq_argmin (F : Nat) : resolve F = (window F).argmin (exactError F) :=
  foldl_keepBest_eq_argAux _ none (List.Subset.refl _) (by simp)

theorem resolve_eq_none_iff (F : Nat) : resolve F = none ↔ ∀ c, c ∉ window F := by
  rw [resolve_eq_argmin, List.argmin_eq_none, List.eq_nil_iff_forall_not_mem]

theorem resolve_eq_some_iff (F : Nat) (r : Candidate) :
    resolve F = some r ↔ r ∈ window F ∧ (∀ c ∈ window F, exactError F r ≤ exactError F c) ∧
      ∀ c ∈ window F, c.p < r.p → exactError F r < exactError F c := by
  rw [resolve_eq_argmin, List.argmin_eq_some_iff]
  refine and_congr_right fun hr => and_congr_right fun _ => forall₂_congr fun c hc => ?_
  rw [idxOf_window_le_iff hr hc, ← not_lt, ← not_lt, not_imp_not]

/-- Settles O33: the window holds the usable dividers with their periods, and the loop finds its first minimum. -/
theorem resolverFindsFirstMinimum : Obligations.ResolverFindsFirstMinimum := by
  intro F _ p0 period usable error
  have husable (p : Nat) : usable p ↔ candidate F p ∈ window F := by
    rw [candidate_mem_window_iff, firstDivider, isqrt_eq_sqrt]
    rfl
  simp only [husable]
  refine ⟨(resolve_eq_none_iff F).trans (forall_mem_window_iff (P := fun _ => False)), fun p T => ?_⟩
  rw [resolve_eq_some_iff, mk_mem_window_iff, and_assoc, forall_mem_window_iff, forall_mem_window_iff]
  refine and_congr_right fun _ => and_congr_right fun hT => ?_
  subst hT
  rfl

end Sys2Proof.Proofs.Resolver
end

section
/-! SUPPORT. The pulse-width family (41_pulse_width.md): the count each command writes, and what the answer to that one write leaves. -/

namespace Sys2Proof.Proofs.PulseWidth

open Sys2Proof Sys2Proof.Machine Sys2Proof.Machine.Laws Sys2Proof.Proofs.Answers

/-! ## The getters -/

/-- Settles O43: the two cases of the width's shadow. -/
theorem getPwReadsWidth : Obligations.GetPwReadsWidth := by
  refine fun s c => ⟨fun h => ?_, fun w h => ?_⟩
  · simp only [exec, execGetPw, h, raise_eq, answeredOnly_eq]
  · simp only [exec, execGetPw, h, respond_eq, answeredOnly_eq]

/-- Settles O46: a percentage stands or none does. -/
theorem getPwPctReadsPercentage : Obligations.GetPwPctReadsPercentage := by
  refine fun s c => ⟨fun h => ?_, fun P h => ?_⟩
  · simp only [exec, execGetPwPct, h, raise_eq, answeredOnly_eq]
  · simp only [exec, execGetPwPct, h, respond_eq, answeredOnly_eq]

/-! ## Commands that leave every timer -/

theorem timers_ext {s t : State} (h : ∀ i, t.timer i = s.timer i) : t.timers = s.timers :=
  Vector.ext fun i hi => h ⟨i, hi⟩

/-- Where a command ends with the timer of its channel as it was, it has left all timers. -/
theorem timers_eq_of_endsWith {o : Result} {s : State} {c : Channel} {log : List BusRecord} {es : List BusEvent} {r : ResponseWord}
    {channel : ChannelRegs} (h : EndsWith o s c log es r (s.timer (timerOf c)) channel) :
    ∃ t, o = .next t ∧ Ended s t log es r ∧ t.channel c = channel ∧ t.timers = s.timers ∧ SameExcept s t (timerOf c) c := by
  obtain ⟨t, ho, hended, htimer, hchannel, hsame⟩ := h
  refine ⟨t, ho, hended, hchannel, timers_ext fun i => ?_, hsame⟩
  by_cases hi : i = timerOf c
  · rw [hi, htimer]
  · exact hsame.1 i hi

/-! ## The one write of SET_PW and SET_PW_PCT -/

section Write

variable {s : State} {c : Channel} {w : Nat} {es : List BusEvent}

/-- Acknowledged, the write sets the width and leaves the percentage `pct` of its command. -/
theorem writePw_setPct_ok (hes : s.busEvents = .ok :: es) (hw : w ≤ 65535) (pct : Option Operand) :
    EndsWith (writePw c w 0 s fun u => respond .ok 1 (zext48 w) (u.setPct c pct)) s c [wrote (pwReg c) w .ok] es
      (responseWord .ok 1 (BitVec.ofNat 48 w)) (s.timer (timerOf c))
      { s.channel c with pw := some (BitVec.ofNat 16 w), pwUns := false, pct := pct } := by
  obtain ⟨v, hk, hv⟩ := (Reached.start (c := c) hes).writePw_ok w
  rw [hk, zext48_eq hw]
  exact (hv.modChannel _).respond (by simp) .ok 1 _

/-- Failed, it changes the sync flag alone, whatever the command would have done next. -/
theorem writePw_first_fail (hes : s.busEvents = .fail :: es) (k : State → Result) :
    EndsWith (writePw c w 0 s k) s c [wrote (pwReg c) w .fail] es (responseWord .busError 0 0) (s.timer (timerOf c))
      { s.channel c with pwUns := true } :=
  (Reached.start hes).writePw_fail w 0 k

end Write

/-! ## SET_PW -/

/-- `w` is `v` clamped to 0..65535: the three cases exclude each other. -/
theorem clamp_toNat_eq {v : Int} {w : Nat} (h : (v < 0 ∧ w = 0) ∨ (65535 < v ∧ w = 65535) ∨ (w : Int) = v ∧ w ≤ 65535) :
    (clamp v 0 Config.regMax).toNat = w := by
  simp only [clamp, Config.regMax]
  split_ifs <;> omega

/-- Settles O42: the count is the clamped operand, and the Bus answers its one write with `OK` or with `FAIL`. -/
theorem setPwWritesClampedWidth : Obligations.SetPwWritesClampedWidth := by
  intro s c v w es hw
  have hle : w ≤ 65535 := by omega
  have hexec : exec (.setPw c v) s = writePw c w 0 s fun u => respond .ok 1 (zext48 w) (u.setPct c none) := by
    simp only [exec, execSetPw, sintOperand, clamp_toNat_eq hw]
  rw [hexec]
  exact ⟨fun hes => timers_eq_of_endsWith (writePw_setPct_ok hes hle none),
    fun hes => timers_eq_of_endsWith (writePw_first_fail hes _)⟩

/-! ## SET_PW_PCT -/

/-- Up to 100 percent, the count stays within the period, which has 16 bits. -/
theorem pctCount_le {P : Nat} (hP : P ≤ 6553600) (arr : RegValue) : pctCount P arr ≤ arr.toNat :=
  rne_le _ _ _ (by decide) <| by
    rw [Nat.mul_comm arr.toNat]
    exact Nat.mul_le_mul_right _ hP

section SetPwPct

variable {s : State} {c : Channel} {P : Operand}

theorem exec_setPwPct_range (h : 6553600 < P.toNat) : exec (.setPwPct c P) s = raise .rangeError 0 s := if_pos h

/-- Past its check, SET_PW_PCT is one write and the response (R142). -/
theorem exec_setPwPct_write (h : P.toNat ≤ 6553600) :
    exec (.setPwPct c P) s = writePw c (pctCount P.toNat (s.timer (timerOf c)).arr) 0 s fun u =>
      respond .ok 1 (zext48 (pctCount P.toNat (s.timer (timerOf c)).arr)) (u.setPct c (some P)) := if_neg h.not_gt

end SetPwPct

/-- Settles O44: the rejection, and the two answers to the one write of the percentage's share of the period. -/
theorem setPwPctWritesShareOfPeriod : Obligations.SetPwPctWritesShareOfPeriod := by
  refine fun s c P es => ⟨exec_setPwPct_range, fun hP hes => ?_, fun hP hes => ?_⟩
  all_goals rw [exec_setPwPct_write hP]
  · have hle : pctCount P.toNat (s.timer (timerOf c)).arr ≤ 65535 :=
      (pctCount_le hP _).trans (Nat.le_of_lt_succ (s.timer (timerOf c)).arr.isLt)
    exact timers_eq_of_endsWith (writePw_setPct_ok hes hle (some P))
  · exact timers_eq_of_endsWith (writePw_first_fail hes _)

end Sys2Proof.Proofs.PulseWidth
end

section
/-! SUPPORT. The servo family (42_servo.md): SERVO_INIT as timer programming with fixed values, SERVO_ANGLE as one pulse-width write, and the
image GET_ANGLE answers. -/

namespace Sys2Proof.Proofs.Servo

open Sys2Proof Sys2Proof.Machine Sys2Proof.Machine.Laws Sys2Proof.Proofs.Answers Sys2Proof.Proofs.PulseWidth

section Commands

variable {s : State} {c : Channel}

/-! ## GET_ANGLE -/

theorem exec_getAngle_unset (h : (s.channel c).angle = none) : exec (.getAngle c) s = .next (s.answeredOnly .unset 0) := by
  simp only [exec, execGetAngle, h, raise_eq, answeredOnly_eq]

theorem exec_getAngle_set {a : Int} (h : (s.channel c).angle = some a) :
    exec (.getAngle c) s = .next (s.answeredOnly .ok (BitVec.ofInt 48 a)) := by
  simp only [exec, execGetAngle, h, respond_eq, answeredOnly_eq]

/-! ## SERVO_INIT -/

theorem exec_servoInit_conflict (hb : s.Blocked c .servo) : exec (.servoInit c) s = raise .conflictError 0 s :=
  if_pos (blocked hb)

/-- Past its check, SERVO_INIT programs the timer with the divider 352 and the period 4095, whose pair is the result (R162, R76). -/
theorem exec_servoInit_program (hb : ¬ s.Blocked c .servo) :
    exec (.servoInit c) s = programTimer c 352 4095 .servo s fun u => respond .ok 2 0x01600FFF (u.setPct c none) := by
  simp only [exec, execServoInit, not_blocked hb, Bool.false_eq_true, if_false]
  rfl

/-! ## SERVO_ANGLE -/

/-- SERVO_ANGLE has no check: it is one write of a count that fits the register, and the response (R163). -/
theorem exec_servoAngle_write (A : Operand) :
    exec (.servoAngle c A) s = writePw c (servoCount A.toInt) 0 s fun u =>
      respond .ok 1 (BitVec.ofNat 48 (servoCount A.toInt))
        ((u.setAngle c (max (-23040) (min A.toInt 23040))).setPct c none) := by
  have hcount : servoCount A.toInt ≤ 65535 := (servoCount_le _).trans (by decide)
  rw [← zext48_eq hcount, ← clampAngle_eq]
  rfl

end Commands

/-! ## The obligations -/

/-- Settles O49: the rejection, then the three answered ends in the order of the writes. -/
theorem servoInitProgramsCarrier : Obligations.ServoInitProgramsCarrier := by
  refine fun s c es => ⟨exec_servoInit_conflict, fun hb hes => ?_, fun hb hes => ?_, fun hb hes => ?_⟩
  all_goals rw [exec_servoInit_program hb]
  · obtain ⟨u, hk, hu⟩ := (Reached.start (c := c) hes).programTimer_ok 352 4095 .servo
    rw [hk]
    exact (hu.modChannel _).respond (by simp) .ok 2 _
  · exact (Reached.start hes).programTimer_psc_fail 352 4095 _ _
  · exact (Reached.start hes).programTimer_arr_fail 352 4095 _ _

/-- Settles O50: the two answers to the one write of the angle's count. -/
theorem servoAngleWritesCount : Obligations.ServoAngleWritesCount := by
  refine fun s c A es => ⟨fun hes => timers_eq_of_endsWith ?_, fun hes => timers_eq_of_endsWith ?_⟩
  all_goals rw [exec_servoAngle_write]
  · obtain ⟨u, hk, hu⟩ := (Reached.start (c := c) hes).writePw_ok (servoCount A.toInt)
    rw [hk]
    exact ((hu.modChannel _).modChannel _).respond (by simp) .ok 1 _
  · exact writePw_first_fail hes _

/-- Settles O51: the two cases of the kept angle; the image of a kept angle is its residue mod 2^48. -/
theorem getAngleReadsClampedAngle : Obligations.GetAngleReadsClampedAngle := by
  refine fun s c => ⟨exec_getAngle_unset, fun a h => ⟨BitVec.ofInt 48 a, exec_getAngle_set h, ?_⟩⟩
  rw [BitVec.toNat_ofInt, Int.toNat_of_nonneg (Int.emod_nonneg _ (by decide))]
  rfl

end Sys2Proof.Proofs.Servo
end

section
/-! SUPPORT. The status family (43_status.md): the flag word GET_SYNC answers, as a number. -/

namespace Sys2Proof.Proofs.Status

open Sys2Proof Sys2Proof.Machine Sys2Proof.Machine.Laws

/-- Three bits, the first one highest, read as a number in a word of 48 bits. -/
theorem toNat_threeFlags (a p w : Bool) :
    ((BitVec.ofBool a ++ BitVec.ofBool p ++ BitVec.ofBool w).setWidth 48).toNat = a.toNat * 4 + p.toNat * 2 + w.toNat := by
  cases a <;> cases p <;> cases w <;> rfl

/-- The flags of the timer and of the channel stand at the bits R180 gives them. -/
theorem syncFlags_toNat (t : TimerRegs) (c : ChannelRegs) :
    (syncFlags t c).toNat = t.arrUns.toNat * 4 + t.pscUns.toNat * 2 + c.pwUns.toNat :=
  toNat_threeFlags t.arrUns t.pscUns c.pwUns

/-- GET_SYNC has no check and makes no write: it responds with the flag word. -/
theorem exec_getSync (s : State) (c : Channel) :
    exec (.getSync c) s = .next (s.answeredOnly .ok (syncFlags (s.timer (timerOf c)) (s.channel c))) := by
  rw [exec, execGetSync, respond_eq, answeredOnly_eq]

/-- Settles O52: the answer is the flag word, whose bits are the flags. -/
theorem getSyncReadsFlags : Obligations.GetSyncReadsFlags :=
  fun s c => ⟨syncFlags (s.timer (timerOf c)) (s.channel c), exec_getSync s c, syncFlags_toNat _ _⟩

end Sys2Proof.Proofs.Status
end

section
/-! SUPPORT. Rejections (60_exceptions.md R201): a response made once a write is planned is OK or BUS_ERROR, so every other status is the
answer of a command that is answered at once. -/

namespace Sys2Proof.Proofs.Exceptions

open Sys2Proof Sys2Proof.Machine Sys2Proof.Machine.Laws Sys2Proof.Proofs.Encoding

/-- The status stands above all other fields, whatever the count of writes is. -/
theorem responseStatus_responseWord (st : Status) (n : Nat) (res : Operand) :
    responseStatus (responseWord st n res) = st.code := by
  simp only [responseStatus, responseWord]
  rw [BitVec.extractLsb'_append_eq_of_le (by decide), BitVec.extractLsb'_append_eq_of_le (by decide),
    BitVec.extractLsb'_append_eq_of_le (by decide), BitVec.extractLsb'_eq_self]

/-- If `t` answers with one response more than `s`, its status is OK or BUS_ERROR. -/
def EndsUnrejected (s t : State) : Prop :=
  ∀ r, t.responses = s.responses ++ [r] → responseStatus r = 0 ∨ responseStatus r = 3

/-- If `t` answers with one response more than `s`, of a status other than OK and BUS_ERROR, then that response is all that came of the
command, and it counts no write and has no result. -/
def RejectsWithoutEffect (s t : State) : Prop :=
  ∀ r, t.responses = s.responses ++ [r] → responseStatus r ≠ 0 → responseStatus r ≠ 3 →
    t = s.deliver r ∧ ∃ st, r = responseWord st 0 0

section Ends

variable {s t u : State} {n : Nat}

theorem EndsUnrejected.of_responses_eq (h : t.responses = s.responses) : EndsUnrejected s t := by
  intro r hr
  simp [h] at hr

theorem EndsUnrejected.of_deliver (h : Running s u n) {st : Status} (hst : st.code = 0 ∨ st.code = 3) (m : Nat) (res : Operand) :
    EndsUnrejected s (u.deliver (responseWord st m res)) := by
  obtain ⟨hresp, -⟩ := h
  intro r hr
  obtain rfl : responseWord st m res = r := by simpa [hresp] using hr
  rwa [responseStatus_responseWord]

/-- A command that has begun its writes is not rejected any more: it responds OK after the last one or BUS_ERROR after a `FAIL`, or a
silent Bus or a reset leaves it without a response. -/
theorem runWrites_endsUnrejected {pre post : State → State} (hpre : Neutral pre) (hpost : Neutral post) {ws : List Write} {m : Nat}
    {res : Operand} (ht : runWrites ws 0 (pre s) (fun u => .next ((post u).deliver (responseWord .ok m res))) = .next t) :
    EndsUnrejected s t := by
  refine runWrites_elim (Q := fun _ n u => Running s u n) (fun n u hrun hu => ?_)
    (fun w ws n u v es hrun hv _ => ?_) (fun w ws n u v es hrun hv _ => ?_)
    (fun w ws n u v hrun hv => ?_) (fun w ws n u v es hrun hv _ _ => ?_) (fun w ws n u v es hrun hv _ _ => ?_)
    ws 0 (pre s) ((Running.refl s).neutral hpre) ht
  · obtain rfl : (post u).deliver _ = t := by simpa using hu
    exact .of_deliver (hrun.neutral hpost) (.inl rfl) m res
  · exact ((hrun.waiting hv).onAnswer w.kind .ok es).neutral w.neutral
  · exact .of_deliver ((hrun.waiting hv).onAnswer w.kind .fail es) (.inr rfl) n 0
  · exact .of_responses_eq (hrun.waiting hv).1
  · exact .of_responses_eq (hrun.waiting hv).1
  · exact .of_responses_eq (hrun.waiting hv).1

theorem EndsUnrejected.rejectsWithoutEffect (h : EndsUnrejected s t) : RejectsWithoutEffect s t :=
  fun r hr hok hbus => ((h r hr).elim hok hbus).elim

/-- A response made at once, with no result unless OK, is delivered in the very state the command found. -/
theorem RejectsWithoutEffect.of_deliver (s : State) (st : Status) {res : Operand} (hres : st ≠ .ok → res = 0) :
    RejectsWithoutEffect s (s.deliver (responseWord st 0 res)) := by
  intro r hr hok _
  obtain rfl : responseWord st 0 res = r := by simpa using hr
  rw [responseStatus_responseWord] at hok
  exact ⟨rfl, st, by rw [hres (code_ne_zero hok)]⟩

end Ends

theorem exec_rejectsWithoutEffect {i : Instr} {s t : State} (ht : exec i s = .next t) : RejectsWithoutEffect s t := by
  cases exec_shape i s with
  | answered st res h _ hres =>
    obtain rfl : s.deliver _ = t := by simpa [h] using ht
    exact .of_deliver s st hres
  | writes pre post ws res hpre hpost _ _ _ h =>
    exact (runWrites_endsUnrejected hpre hpost (h.symm.trans ht)).rejectsWithoutEffect

theorem runCommand_rejectsWithoutEffect {w : CommandWord} {s t : State} (ht : runCommand w s = .next t) :
    RejectsWithoutEffect s.accept t := by
  rw [runCommand] at ht
  cases hw : decode w with
  | ok i =>
    rw [hw] at ht
    exact exec_rejectsWithoutEffect ht
  | error e =>
    obtain rfl : s.accept.deliver (responseWord .illegal 0 0) = t := by simpa [hw] using ht
    exact .of_deliver s.accept .illegal fun _ => rfl

/-- Settles O25: a rejection is delivered in the state that accepted the word, by a command that has planned no write or by a word that
does not decode. -/
theorem rejectionsChangeNothing : Obligations.RejectionsChangeNothing := by
  intro w s t r ht hr hok hbus
  obtain ⟨rfl, st, rfl⟩ := runCommand_rejectsWithoutEffect ht r hr hok hbus
  obtain ⟨-, -, hwrites, hresult⟩ := response_fields st 0 0 (Nat.zero_le 3)
  exact ⟨rfl, BitVec.eq_of_toNat_eq hwrites, hresult⟩

end Sys2Proof.Proofs.Exceptions
end

section
/-! SUPPORT. Reset (70_reset_and_hazards.md R231, R232): the timers and channels a reset state holds. -/

namespace Sys2Proof.Proofs.Reset

open Sys2Proof Sys2Proof.Machine Sys2Proof.Machine.Laws

@[simp] theorem timer_resetWith (b : Bool) (t : TimerIndex) : (State.resetWith b).timer t = .reset := by
  simp [State.resetWith, State.timer]

@[simp] theorem channel_resetWith (b : Bool) (c : Channel) : (State.resetWith b).channel c = .reset := by
  simp [State.resetWith, State.channel]

/-- A state whose timers and channels all are `TimerRegs.reset` and `ChannelRegs.reset` has the values of R231 and R232. -/
theorem registerValues_of_reset {s : State} (ht : ∀ t, s.timer t = .reset) (hc : ∀ c, s.channel c = .reset) :
    (∀ t, (s.timer t).psc = none ∧ (s.timer t).arr = 1 ∧ (s.timer t).pscUns = true ∧ (s.timer t).arrUns = true) ∧
    (∀ c, (s.channel c).pw = none ∧ (s.channel c).pct = none ∧ (s.channel c).angle = none ∧
      (s.channel c).req = .unclaimed ∧ (s.channel c).pwUns = true) := by
  refine ⟨fun t => ?_, fun c => ?_⟩
  · rw [ht t]
    exact ⟨rfl, rfl, rfl, rfl⟩
  · rw [hc c]
    exact ⟨rfl, rfl, rfl, rfl, rfl⟩

/-- Settles O13: a reset with either parameter and a whole-block reset of any state leave every timer and channel at its reset record. -/
theorem resetRegisterValues : Obligations.ResetRegisterValues := by
  rintro s (rfl | ⟨b, rfl⟩ | ⟨u, rfl⟩)
  · exact registerValues_of_reset (timer_resetWith false) (channel_resetWith false)
  · exact registerValues_of_reset (timer_resetWith b) (channel_resetWith b)
  · exact registerValues_of_reset (timer_blockReset u) (channel_blockReset u)

end Sys2Proof.Proofs.Reset
end

section
/-! SUPPORT. The codec (30_encoding.md): the fields of a word, the one word of each command, and the words of responses; and the map of
register addresses (20_memory.md R51). -/

namespace Sys2Proof.Proofs.Codec

open Sys2Proof Sys2Proof.Machine Sys2Proof.Machine.Laws Sys2Proof.Proofs.Encoding

/-! ## Command words -/

theorem extractLsb'_toNat_eq_div (w : CommandWord) (start len : Nat) :
    (w.extractLsb' start len).toNat = w.toNat / 2 ^ start % 2 ^ len := by
  rw [BitVec.extractLsb'_toNat, Nat.shiftRight_eq_div_pow]

/-- Settles O1: each field is the word shifted and cut to the field's width, which the opcode, at the top, fills. -/
theorem commandWordFields : Obligations.CommandWordFields := by
  intro w
  have hop : w.toNat / 2 ^ 60 < 2 ^ 4 := Nat.div_lt_of_lt_mul w.isLt
  exact ⟨(extractLsb'_toNat_eq_div w 60 4).trans (Nat.mod_eq_of_lt hop), extractLsb'_toNat_eq_div w 55 5,
    extractLsb'_toNat_eq_div w 48 7, (extractLsb'_toNat_eq_div w 0 48).trans (by rw [Nat.pow_zero, Nat.div_one])⟩

theorem splitWord_encode (i : Instr) : splitWord (encode i) = i.fields := split_join i.fields

/-- Settles O2: the word of a command has the command's fields, which are those of its row. -/
theorem opcodeMap : Obligations.OpcodeMap := by
  intro c opd
  simp only [splitWord_encode]
  exact ⟨rfl, rfl, rfl, rfl, rfl, rfl, rfl, rfl, rfl, rfl, rfl, rfl, rfl, rfl⟩

/-! ## Decoding an encoded command -/

/-- A command is the one its opcode makes of its channel and operand. -/
theorem instr_opcode (i : Instr) : i.opcode.instr i.channel i.operand = i := by cases i <;> rfl

theorem opcodeOf_code (o : Opcode) : opcodeOf o.code = some o := by cases o <;> rfl

theorem operand_eq_zero {i : Instr} (h : i.opcode.format = .zero) : i.operand = 0 := by
  cases i with
  | getFreq | getPeriod | getPrescaler | getPw | getPwPct | servoInit | getAngle | getSync => rfl
  | setFreq | setPeriod | setPrescaler | setPw | setPwPct | servoAngle => cases h

theorem channel_field_toNat (i : Instr) : i.fields.ch.toNat = i.channel.val :=
  Nat.mod_eq_of_lt (i.channel.isLt.trans (by decide))

/-- The fields of a command pass every check and give the command back. -/
theorem decodeFields_fields (i : Instr) : decodeFields i.fields = .ok i := by
  have hop : opcodeOf i.fields.op = some i.opcode := opcodeOf_code i.opcode
  have hch : i.fields.ch.toNat < 20 := channel_field_toNat i ▸ i.channel.isLt
  have hrsv : ¬ i.fields.rsv ≠ 0 := not_not.2 rfl
  have hopd : ¬ (i.opcode.format = .zero ∧ i.fields.opd ≠ 0) := fun h => h.2 (operand_eq_zero h.1)
  have hc : (⟨i.fields.ch.toNat, hch⟩ : Channel) = i.channel := Fin.ext (channel_field_toNat i)
  rw [decodeFields, hop]
  simp only [dif_pos hch, if_neg hrsv, if_neg hopd, hc]
  exact congrArg _ (instr_opcode i)

/-- Settles O3: the word of a command has the command's fields, which decode to it. -/
theorem decodeOfEncode : Obligations.DecodeOfEncode := by
  intro i
  rw [decode, splitWord_encode, decodeFields_fields]

/-! ## Encoding a decoded word -/

/-- Fields that decode pass every check, so they are those of the command they decode to. -/
theorem fields_of_decodeFields {f : Fields} {i : Instr} (h : decodeFields f = .ok i) : i.fields = f := by
  cases hop : f.legalOpcode with
  | false => simp [decodeFields_reservedOpcode hop] at h
  | true =>
    cases hch : f.legalChannel with
    | false => simp [decodeFields_noSuchChannel hop hch] at h
    | true =>
      cases hrsv : f.legalReserved with
      | false => simp [decodeFields_reservedBits hop hch hrsv] at h
      | true =>
        cases hopd : f.legalOperand with
        | false => simp [decodeFields_nonzeroOperand hop hch hrsv hopd] at h
        | true =>
          obtain ⟨j, hj, hfields⟩ := decodeFields_ok hop hch hrsv hopd
          obtain rfl : j = i := by simpa [hj] using h
          exact hfields

/-- Settles O4: a word is made of its fields, which are those of the command it decodes to. -/
theorem encodeOfDecode : Obligations.EncodeOfDecode := by
  intro w i h
  rw [encode, fields_of_decodeFields h, join_split]

/-! ## Examples, responses, addresses -/

/-- Settles O6: the assembler and the decoder run on the example lines and words. -/
theorem exampleWords : Obligations.ExampleWords := by
  unfold Obligations.ExampleWords
  decide

theorem zext48_toNat {n : Nat} (h : n ≤ 65535) : (zext48 n).toNat = n := by
  rw [zext48_eq h, BitVec.toNat_ofNat]
  exact Nat.mod_eq_of_lt (by omega)

theorem pairResult_toNat {p T : Nat} (hp : p ≤ 65535) (hT : T ≤ 65535) : (pairResult p T).toNat = p * 2 ^ 16 + T := by
  have hp' : (BitVec.ofNat 16 p).toNat = p := Nat.mod_eq_of_lt (by omega)
  have hT' : (BitVec.ofNat 16 T).toNat = T := Nat.mod_eq_of_lt (by omega)
  rw [pairResult, BitVec.toNat_setWidth, BitVec.toNat_append, ← Nat.shiftLeft_add_eq_or_of_lt (BitVec.isLt _), hp', hT',
    Nat.shiftLeft_eq]
  exact Nat.mod_eq_of_lt (by omega)

/-- Settles O8: the response word as a number, the two forms of 16-bit results, and the code of each status. -/
theorem responseWordFields : Obligations.ResponseWordFields :=
  ⟨responseWord_toNat, fun _ => zext48_toNat, fun _ _ => pairResult_toNat, rfl, rfl, rfl, rfl, rfl, rfl⟩

/-- Settles O31: the addresses are the listed ones, channel by channel and timer by timer. -/
theorem registerAddressMap : Obligations.RegisterAddressMap := by
  unfold Obligations.RegisterAddressMap
  decide

end Sys2Proof.Proofs.Codec
end

section
/-! SUPPORT. The step (00_scope.md R10): what a step can be, said once; that every command answers a next state; and what every command
leaves as it is at the ports. -/

namespace Sys2Proof.Proofs.Steps

open Sys2Proof Sys2Proof.Machine Sys2Proof.Machine.Laws

/-! ## What a step can be -/

/-- What an accepted word leads to: the execution of the command it decodes to, or the response ILLEGAL. -/
theorem runCommand_cases {w : CommandWord} {s t : State} (ht : runCommand w s = .next t) :
    (∃ i, decode w = .ok i ∧ exec i s.accept = .next t) ∨ t = s.accept.deliver (responseWord .illegal 0 0) := by
  rw [runCommand] at ht
  cases hw : decode w with
  | ok i =>
    rw [hw] at ht
    exact .inl ⟨i, rfl, ht⟩
  | error e =>
    obtain rfl : s.accept.deliver _ = t := by simpa [hw] using ht
    exact .inr rfl

/-- The state `s` after PFR has taken an event and left `rest`. -/
def took (s : State) (rest : List HostEvent) : State := { s with inbox := rest }

/-- What a step of an IDLE PFR in the state `s` can lead to: it waits, carries out an accepted word, abandons the command to a reset
before its response, is reset, or has the device reset beside it. -/
inductive StepsTo (s : State) : State → Prop where
  | waits (hinbox : s.inbox = []) : StepsTo s s
  | command {w : CommandWord} {rest : List HostEvent} {t : State} (hinbox : s.inbox = .command w :: rest)
      (hrun : runCommand w (took s rest) = .next t) : StepsTo s t
  | abandons {w : CommandWord} {rest : List HostEvent} {t : State} (hinbox : s.inbox = .commandThenReset w :: rest)
      (hrun : runCommand w (took s rest) = .next t) : StepsTo s (t.abandon s.responses)
  | reset {rest : List HostEvent} (hinbox : s.inbox = .reset :: rest) : StepsTo s (took s rest).blockReset
  | deviceReset {rest : List HostEvent} (hinbox : s.inbox = .deviceReset :: rest) : StepsTo s (took s rest).deviceReset

theorem step_cons {s : State} {e : HostEvent} {rest : List HostEvent} (hphase : s.phase = .idle) (hinbox : s.inbox = e :: rest) :
    step s = takeEvent e rest s := by
  simp only [step, hphase, hinbox]

theorem step_nil {s : State} (hphase : s.phase = .idle) (hinbox : s.inbox = []) : step s = .next s := by
  simp only [step, hphase, hinbox]

theorem step_busy {s : State} (hphase : s.phase = .busy) : step s = .fault .busNeverAnswers := by
  simp only [step, hphase]

theorem takeEvent_commandThenReset {s t : State} {w : CommandWord} {rest : List HostEvent}
    (h : runCommand w (took s rest) = .next t) : takeEvent (.commandThenReset w) rest s = .next (t.abandon s.responses) := by
  have h : runCommand w { s with inbox := rest } = .next t := h
  simp only [takeEvent, h]

theorem takeEvent_commandThenReset_cases {s t : State} {w : CommandWord} {rest : List HostEvent}
    (ht : takeEvent (.commandThenReset w) rest s = .next t) :
    ∃ u, runCommand w (took s rest) = .next u ∧ t = u.abandon s.responses := by
  simp only [takeEvent] at ht
  split at ht
  · next u hu =>
    obtain rfl : u.abandon s.responses = t := Host.Outcome.next.inj ht
    exact ⟨u, hu, rfl⟩
  · cases ht
  · cases ht

/-- Only an IDLE PFR has a step, and it leads where `StepsTo` says. -/
theorem step_cases {s t : State} (ht : step s = .next t) : s.phase = .idle ∧ StepsTo s t := by
  cases hphase : s.phase with
  | busy =>
    rw [step_busy hphase] at ht
    cases ht
  | idle =>
    refine ⟨rfl, ?_⟩
    cases hinbox : s.inbox with
    | nil =>
      obtain rfl : s = t := by simpa [step_nil hphase hinbox] using ht
      exact .waits hinbox
    | cons e rest =>
      rw [step_cons hphase hinbox] at ht
      cases e with
      | command w => exact .command hinbox ht
      | commandThenReset w =>
        obtain ⟨u, hu, rfl⟩ := takeEvent_commandThenReset_cases ht
        exact .abandons hinbox hu
      | reset =>
        obtain rfl : (took s rest).blockReset = t := Host.Outcome.next.inj ht
        exact .reset hinbox
      | deviceReset =>
        obtain rfl : (took s rest).deviceReset = t := Host.Outcome.next.inj ht
        exact .deviceReset hinbox

/-! ## Every command answers a next state -/

theorem runWrites_next (ws : List Write) (n : Nat) (s : State) {k : State → Result} (hk : ∀ u, ∃ t, k u = .next t) :
    ∃ t, runWrites ws n s k = .next t := by
  induction ws generalizing n s with
  | nil => exact hk s
  | cons w ws ih => exact shadowedWrite_next _ _ _ _ _ _ fun u => ih (n + 1) u

theorem exec_next (i : Instr) (s : State) : ∃ t, exec i s = .next t := by
  cases exec_shape i s with
  | answered st r h => exact ⟨_, h⟩
  | writes pre post ws r _ _ _ _ _ h =>
    rw [h]
    exact runWrites_next ws 0 (pre s) fun u => ⟨_, rfl⟩

/-- A command with no write planned is answered at once, and that is all it does. -/
theorem deliver_of_plannedWrites_nil {i : Instr} {s t : State} (hplan : plannedWrites s i = []) (ht : exec i s = .next t) :
    ∃ st r, t = s.deliver (responseWord st 0 r) := by
  cases exec_shape i s with
  | answered st r h => exact ⟨st, r, Host.Outcome.next.inj (ht.symm.trans h)⟩
  | writes pre post ws r _ _ hws hlen _ _ =>
    have hnil : ws = [] := List.map_eq_nil_iff.1 (hws.trans hplan)
    simp [hnil] at hlen

theorem runCommand_next (w : CommandWord) (s : State) : ∃ t, runCommand w s = .next t := by
  rw [runCommand]
  cases decode w with
  | ok i => exact exec_next i s.accept
  | error e => exact ⟨_, rfl⟩

theorem takeEvent_next (e : HostEvent) (rest : List HostEvent) (s : State) : ∃ t, takeEvent e rest s = .next t := by
  cases e with
  | command w => exact runCommand_next w _
  | commandThenReset w =>
    obtain ⟨t, ht⟩ := runCommand_next w (took s rest)
    exact ⟨_, takeEvent_commandThenReset ht⟩
  | reset => exact ⟨_, rfl⟩
  | deviceReset => exact ⟨_, rfl⟩

theorem step_next {s : State} (hphase : s.phase = .idle) : ∃ t, step s = .next t := by
  cases hinbox : s.inbox with
  | nil => exact ⟨s, step_nil hphase hinbox⟩
  | cons e rest =>
    rw [step_cons hphase hinbox]
    exact takeEvent_next e rest s

/-- Settles O10: every list of writes and every event answers a next state, so the phase alone decides whether there is a step. -/
theorem stopsOnlyWhileBusy : Obligations.StopsOnlyWhileBusy :=
  ⟨exec_next, fun _ => step_busy, fun _ => step_next, fun _ => step_nil⟩

/-! ## The step of an offered word -/

theorem step_command {s : State} {w : CommandWord} {rest : List HostEvent} {i : Instr} (hphase : s.phase = .idle)
    (hinbox : s.inbox = .command w :: rest) (hw : decode w = .ok i) :
    step s = exec i { s with inbox := rest, phase := .busy } := by
  rw [step_cons hphase hinbox, takeEvent, runCommand, hw]
  rfl

theorem decode_of_decodeTableWord {nbits w : Nat} {i : Instr} (h : decodeTableWord nbits w = some i) :
    decode (BitVec.ofNat 64 (w % 2 ^ nbits)) = .ok i := by
  rw [decodeTableWord] at h
  split at h
  · next j hj =>
    obtain rfl : j = i := by simpa using h
    exact hj
  · cases h

/-- Settles O9: an offered word is decoded and executed, and `withFetchWord` offers the word it names. -/
theorem stepRunsDecodedCommand : Obligations.StepRunsDecodedCommand :=
  ⟨fun _ _ _ _ => step_command, fun _ _ _ _ h => step_command rfl rfl (decode_of_decodeTableWord h)⟩

/-! ## Resets of an IDLE PFR -/

/-- Settles O14: with no write outstanding, the whole-block reset replaces PFR's registers only, and the reset of the device empties what
is known of it only. -/
theorem resetsReachOneSideOnly : Obligations.ResetsReachOneSideOnly := by
  refine fun s rest hphase hout => ⟨fun hinbox => ?_, fun hinbox => ?_⟩
  · have hlog : (took s rest).blockReset.busLog = s.busLog := by simp [took, hout]
    exact ⟨(took s rest).blockReset, step_cons hphase hinbox, rfl, rfl, rfl, rfl, rfl, rfl, hlog, rfl, rfl,
      fun hrest => step_nil rfl hrest⟩
  · exact ⟨(took s rest).deviceReset, step_cons hphase hinbox, rfl, read_nil⟩

/-! ## What every command leaves at the ports -/

/-- Between `s` and `t` nothing was taken from the inbox, bus events were only used up, and the parameter is the same. -/
structure Kept (s t : State) : Prop where
  inbox : t.inbox = s.inbox
  busEvents : t.busEvents <:+ s.busEvents
  conflictCheck : t.conflictCheck = s.conflictCheck

section Kept

variable {s t u v : State}

theorem Kept.of_eq (hinbox : t.inbox = s.inbox) (hes : t.busEvents = s.busEvents) (hcheck : t.conflictCheck = s.conflictCheck) :
    Kept s t := ⟨hinbox, hes ▸ List.suffix_refl _, hcheck⟩

theorem Kept.trans (h : Kept s t) (h' : Kept t u) : Kept s u :=
  ⟨h'.inbox.trans h.inbox, h'.busEvents.trans h.busEvents, h'.conflictCheck.trans h.conflictCheck⟩

theorem kept_neutral {f : State → State} (hf : Neutral f) (s : State) : Kept s (f s) :=
  .of_eq (hf.inbox s) (hf.busEvents s) (hf.conflictCheck s)

theorem kept_onAnswer (k : Kind) (a : BusAnswer) (s : State) : Kept s (Shadows.onAnswer k a s) := by
  cases a <;> cases k <;> exact .of_eq rfl rfl rfl

/-- Of a request that stands, whatever events have been used up. -/
theorem Kept.waiting (h : Kept s u) {q : BusRequest} (hv : Waiting u q v) {es : List BusEvent} (hes : es <:+ u.busEvents) :
    Kept s { v with busEvents := es } := by
  obtain rfl | ⟨rfl, -⟩ := hv <;> exact h.trans ⟨rfl, hes, rfl⟩

theorem Kept.answered (h : Kept s u) {q : BusRequest} (hv : Waiting u q v) {es : List BusEvent} (hes : es <:+ u.busEvents)
    (a : BusAnswer) : Kept s (v.answered q a es) :=
  (h.waiting hv hes).trans (.of_eq rfl rfl rfl)

end Kept

theorem exec_kept {i : Instr} {s t : State} (ht : exec i s = .next t) : Kept s t := by
  cases exec_shape i s with
  | answered st r h =>
    obtain rfl : s.deliver _ = t := by simpa [h] using ht
    exact .of_eq rfl rfl rfl
  | writes pre post ws r hpre hpost _ _ _ h =>
    refine runWrites_elim (Q := fun _ _ u => Kept s u) (fun n u hQ hu => ?_)
      (fun w ws n u v es hQ hv hs => ((hQ.answered hv hs .ok).trans (kept_onAnswer w.kind .ok _)).trans (kept_neutral w.neutral _))
      (fun w ws n u v es hQ hv hs => ((hQ.answered hv hs .fail).trans (kept_onAnswer w.kind .fail _)).trans (.of_eq rfl rfl rfl))
      (fun w ws n u v hQ hv => hQ.waiting hv List.nil_suffix)
      (fun w ws n u v es hQ hv hs _ => (hQ.waiting hv hs).trans (.of_eq rfl rfl rfl))
      (fun w ws n u v es hQ hv hs _ => (hQ.answered hv hs .ok).trans (.of_eq rfl rfl rfl))
      ws 0 (pre s) (kept_neutral hpre s) (h.symm.trans ht)
    obtain rfl : (post u).deliver _ = t := by simpa using hu
    exact (hQ.trans (kept_neutral hpost u)).trans (.of_eq rfl rfl rfl)

theorem runCommand_kept {w : CommandWord} {s t : State} (ht : runCommand w s = .next t) : Kept s t := by
  obtain ⟨i, -, hi⟩ | rfl := runCommand_cases ht
  · exact (Kept.of_eq rfl rfl rfl : Kept s s.accept).trans (exec_kept hi)
  · exact .of_eq rfl rfl rfl

/-- Settles O22: no event at the ports reaches the parameter, and no command changes it. -/
theorem conflictCheckIsFixed : Obligations.ConflictCheckIsFixed := by
  intro s t ht
  obtain ⟨-, hstep⟩ := step_cases ht
  cases hstep with
  | waits => rfl
  | command _ hrun => exact (runCommand_kept hrun).conflictCheck
  | abandons _ hrun => exact (runCommand_kept hrun).conflictCheck
  | reset => rfl
  | deviceReset => rfl

end Sys2Proof.Proofs.Steps
end

section
/-! SUPPORT. Two invariants of every step: the legal state (10_state.md R21, R31), and the agreement of shadows and device where a sync flag
is 0 (43_status.md R181). -/

namespace Sys2Proof.Proofs.Invariants

open Sys2Proof Sys2Proof.Machine Sys2Proof.Machine.Laws Sys2Proof.Proofs.Shadows Sys2Proof.Proofs.Steps

/-! ## Legal registers, device and log -/

/-- What `State.Legal` says of all but the phase and the outstanding write: this also holds between a command's writes. -/
structure Sound (s : State) : Prop where
  timers : ∀ t, (s.timer t).Legal
  channels : ∀ c, (s.channel c).Legal
  device : s.device.wf
  cells : ∀ cell ∈ s.device, BitVec.ofNat 8 cell.1 ∈ deviceRegisters
  log : ∀ r ∈ s.busLog, r.request.reg ∈ deviceRegisters

theorem legal_timerReset : TimerRegs.reset.Legal := ⟨by simp [TimerRegs.reset], by decide⟩

theorem legal_channelReset : ChannelRegs.reset.Legal := by simp [ChannelRegs.Legal, ChannelRegs.reset]

theorem ofNat16_ne_zero {n : Nat} (h : 1 ≤ n ∧ n ≤ 65535) : BitVec.ofNat 16 n ≠ 0 := by
  intro h0
  have h0 := congrArg BitVec.toNat h0
  rw [BitVec.toNat_ofNat, Nat.mod_eq_of_lt (by omega)] at h0
  exact absurd h0 (by simp; omega)

section Sound

variable {s t u v : State} {q : BusRequest}

theorem Sound.congr (h : Sound s) (ht : t.timers = s.timers) (hc : t.channels = s.channels) (hd : t.device = s.device)
    (hl : t.busLog = s.busLog) : Sound t where
  timers i := timer_of_timers_eq ht i ▸ h.timers i
  channels c := channel_of_channels_eq hc c ▸ h.channels c
  device := hd ▸ h.device
  cells := hd ▸ h.cells
  log := hl ▸ h.log

theorem Sound.neutral (h : Sound s) {f : State → State} (hf : Neutral f) : Sound (f s) where
  timers i := hf.timer s i ▸ h.timers i
  channels := hf.legal s h.channels
  device := hf.device s ▸ h.device
  cells := hf.device s ▸ h.cells
  log := hf.busLog s ▸ h.log

theorem Sound.issue (h : Sound s) (q : BusRequest) : Sound (s.issue q) :=
  { h with
    device := wf_forget h.device _
    cells := fun cell hc => h.cells cell (mem_forget hc) }

theorem Sound.deviceReset (h : Sound s) : Sound s.deviceReset :=
  { h with
    device := wf_nil
    cells := fun _ hc => absurd hc List.not_mem_nil }

theorem Sound.waiting (h : Sound u) (hv : Waiting u q v) : Sound v := by
  obtain rfl | ⟨rfl, -⟩ := hv
  · exact h.issue q
  · exact (h.issue q).deviceReset

theorem Sound.log_append (h : Sound s) {r : BusRecord} (hr : r.request.reg ∈ deviceRegisters) :
    ∀ r' ∈ s.busLog ++ [r], r'.request.reg ∈ deviceRegisters := by
  intro r' hr'
  obtain hr' | hr' := List.mem_append.1 hr'
  · exact h.log r' hr'
  · exact List.mem_singleton.1 hr' ▸ hr

theorem Sound.answered (h : Sound s) (hq : q.reg ∈ deviceRegisters) (a : BusAnswer) (es : List BusEvent) :
    Sound (s.answered q a es) := by
  cases a with
  | fail => exact { h with log := h.log_append hq }
  | ok =>
    refine { h with log := h.log_append hq, device := wf_receive_wireBytes h.device q, cells := fun cell hc => ?_ }
    rw [answered_ok_device, receive_wireBytes] at hc
    obtain rfl | hc := mem_write hc
    · simpa using hq
    · exact h.cells cell hc

theorem Sound.modTimer (h : Sound s) (i : TimerIndex) {f : TimerRegs → TimerRegs} (hf : ∀ r, r.Legal → (f r).Legal) :
    Sound (s.modTimer i f) :=
  { h with
    timers := fun j => by
      by_cases hj : j = i
      · rw [hj, timer_modTimer_same]
        exact hf _ (h.timers i)
      · rw [timer_modTimer_ne s f hj]
        exact h.timers j }

theorem Sound.modChannel (h : Sound s) (c : Channel) {f : ChannelRegs → ChannelRegs} (hf : ∀ r, r.Legal → (f r).Legal) :
    Sound (s.modChannel c f) :=
  { h with
    channels := fun c' => by
      by_cases hc : c' = c
      · rw [hc, channel_modChannel_same]
        exact hf _ (h.channels c)
      · rw [channel_modChannel_ne s f hc]
        exact h.channels c' }

/-- An answer sets a shadow to the value written, which is in range, or leaves it. -/
theorem Sound.onAnswer (h : Sound s) {k : Kind} (hk : k.InRange) (a : BusAnswer) : Sound (Shadows.onAnswer k a s) := by
  cases k with
  | psc i p =>
    cases a with
    | ok => exact h.modTimer i fun r hr => ⟨fun x hx => Option.mem_some.1 hx ▸ ofNat16_ne_zero hk, hr.2⟩
    | fail => exact h.modTimer i fun r hr => hr
  | arr i T =>
    cases a with
    | ok => exact h.modTimer i fun r hr => ⟨hr.1, ofNat16_ne_zero hk⟩
    | fail => exact h.modTimer i fun r hr => hr
  | pw c v => cases a <;> exact h.modChannel c fun r hr => hr

/-- A reset records an abandoned write, which must be one to a listed register. -/
theorem Sound.blockReset (h : Sound s) (hq : ∀ q ∈ s.outstanding, q.reg ∈ deviceRegisters) : Sound s.blockReset where
  timers i := timer_blockReset s i ▸ legal_timerReset
  channels c := channel_blockReset s c ▸ legal_channelReset
  device := h.device
  cells := h.cells
  log := by
    rw [blockReset_busLog]
    cases hout : s.outstanding with
    | none => simpa using h.log
    | some q => exact h.log_append (r := ⟨q, none⟩) (hq q hout)

theorem Sound.legal_of_idle (h : Sound s) (hphase : s.phase = .idle) (hout : s.outstanding = none) : s.Legal :=
  ⟨h.timers, h.channels, h.device, h.cells, h.log, by simp [hout], by simp [hphase, hout]⟩

theorem Sound.legal_of_busy (h : Sound s) (hphase : s.phase = .busy) (hout : s.outstanding = some q)
    (hq : q.reg ∈ deviceRegisters) : s.Legal :=
  ⟨h.timers, h.channels, h.device, h.cells, h.log, by simpa [hout] using hq, by simp [hphase, hout]⟩

theorem Sound.legal_deliver (h : Sound s) (hout : s.outstanding = none) (r : ResponseWord) : (s.deliver r).Legal :=
  Sound.legal_of_idle (h.congr rfl rfl rfl rfl) rfl hout

theorem Sound.legal_blockReset (h : Sound s) (hq : ∀ q ∈ s.outstanding, q.reg ∈ deviceRegisters) : s.blockReset.Legal :=
  (h.blockReset hq).legal_of_idle rfl rfl

end Sound

theorem sound_of_legal {s : State} (h : s.Legal) : Sound s := by
  obtain ⟨ht, hc, hd, hcells, hlog, -, -⟩ := h
  exact ⟨ht, hc, hd, hcells, hlog⟩

theorem outstanding_of_legal {s : State} (h : s.Legal) : ∀ q ∈ s.outstanding, q.reg ∈ deviceRegisters := by
  obtain ⟨-, -, -, -, -, hout, -⟩ := h
  exact hout

theorem outstanding_none_of_idle {s : State} (h : s.Legal) (hphase : s.phase = .idle) : s.outstanding = none := by
  obtain ⟨-, -, -, -, -, -, hbusy⟩ := h
  cases hout : s.outstanding with
  | none => rfl
  | some q =>
    rw [hbusy.2 (by rw [hout]; rfl)] at hphase
    cases hphase

/-- What holds before each write of a command: PFR is BUSY, no write is outstanding, and the rest is legal. -/
structure Between (s : State) : Prop where
  sound : Sound s
  phase : s.phase = .busy
  outstanding : s.outstanding = none

section Between

variable {s u v : State} {w : Write} {es : List BusEvent}

theorem onAnswer_phase (k : Kind) (a : BusAnswer) (s : State) : (onAnswer k a s).phase = s.phase := by
  cases a <;> cases k <;> rfl

theorem onAnswer_outstanding (k : Kind) (a : BusAnswer) (s : State) : (onAnswer k a s).outstanding = s.outstanding := by
  cases a <;> cases k <;> rfl

theorem Between.neutral (h : Between s) {f : State → State} (hf : Neutral f) : Between (f s) :=
  ⟨h.sound.neutral hf, (hf.phase s).trans h.phase, (hf.outstanding s).trans h.outstanding⟩

theorem phase_of_waiting {q : BusRequest} (hv : Waiting u q v) : v.phase = u.phase := by
  obtain rfl | ⟨rfl, -⟩ := hv <;> rfl

theorem outstanding_of_waiting {q : BusRequest} (hv : Waiting u q v) : v.outstanding = some q := by
  obtain rfl | ⟨rfl, -⟩ := hv <;> rfl

theorem Between.onAnswer (h : Between u) (hv : Waiting u w.kind.request v) (a : BusAnswer) (es : List BusEvent) :
    Between (onAnswer w.kind a (v.answered w.kind.request a es)) where
  sound := ((h.sound.waiting hv).answered w.kind.reg_mem a es).onAnswer w.inRange a
  phase := by rw [onAnswer_phase, answered_phase, phase_of_waiting hv, h.phase]
  outstanding := onAnswer_outstanding w.kind a _

end Between

/-- A command that begins in a legal BUSY state ends in a legal state. -/
theorem exec_legal {i : Instr} {s t : State} (h : Between s) (ht : exec i s = .next t) : t.Legal := by
  cases exec_shape i s with
  | answered st r hexec =>
    obtain rfl : s.deliver _ = t := by simpa [hexec] using ht
    exact h.sound.legal_deliver h.outstanding _
  | writes pre post ws r hpre hpost _ _ _ hexec =>
    refine runWrites_elim (Q := fun _ _ u => Between u) (fun n u hQ hu => ?_)
      (fun w ws n u v es hQ hv hs => (hQ.onAnswer hv .ok es).neutral w.neutral) (fun w ws n u v es hQ hv hs => ?_)
      (fun w ws n u v hQ hv => ?_) (fun w ws n u v es hQ hv hs _ => ?_) (fun w ws n u v es hQ hv hs _ => ?_)
      ws 0 (pre s) (h.neutral hpre) (hexec.symm.trans ht)
    · obtain rfl : (post u).deliver _ = t := by simpa using hu
      have hend := hQ.neutral hpost
      exact hend.sound.legal_deliver hend.outstanding _
    · have hend := hQ.onAnswer hv .fail es
      exact hend.sound.legal_deliver hend.outstanding _
    · exact ((hQ.sound.waiting hv).congr rfl rfl rfl rfl).legal_of_busy ((phase_of_waiting hv).trans hQ.phase)
        (outstanding_of_waiting hv) w.kind.reg_mem
    · refine ((hQ.sound.waiting hv).congr rfl rfl rfl rfl).legal_blockReset fun q hq => ?_
      obtain rfl : w.kind.request = q := Option.some.inj ((outstanding_of_waiting hv).symm.trans hq)
      exact w.kind.reg_mem
    · exact ((hQ.sound.waiting hv).answered w.kind.reg_mem .ok es).legal_blockReset (by simp)

theorem runCommand_legal {w : CommandWord} {s t : State} (h : Sound s) (hout : s.outstanding = none)
    (ht : runCommand w s = .next t) : t.Legal := by
  obtain ⟨i, -, hi⟩ | rfl := runCommand_cases ht
  · exact exec_legal (s := s.accept) ⟨h.congr rfl rfl rfl rfl, rfl, hout⟩ hi
  · exact Sound.legal_deliver (s := s.accept) (h.congr rfl rfl rfl rfl) hout _

/-- Settles O17: between a command's writes PFR is BUSY with none outstanding, and every end of a write or a command leads to a legal
state. -/
theorem stepKeepsLegalState : Obligations.StepKeepsLegalState := by
  intro s t h ht
  obtain ⟨hphase, hstep⟩ := step_cases ht
  have hsound (rest : List HostEvent) : Sound (took s rest) := (sound_of_legal h).congr rfl rfl rfl rfl
  have hout := outstanding_none_of_idle h hphase
  cases hstep with
  | waits => exact h
  | @command _ rest _ _ hrun => exact runCommand_legal (hsound rest) hout hrun
  | @abandons _ rest _ _ hrun =>
    have hend := runCommand_legal (hsound rest) hout hrun
    exact ((sound_of_legal hend).congr rfl rfl rfl rfl).legal_blockReset (outstanding_of_legal hend)
  | reset => exact (hsound _).legal_blockReset (outstanding_of_legal h)
  | deviceReset => exact (hsound _).deviceReset.legal_of_idle hphase hout

/-! ## Shadows and device -/

/-- The device holds the image of the shadow of `x`, if its sync flag is 0 (R181). -/
def InSync (s : State) (x : Reg) : Prop :=
  (shadow s x).2 = false → ∃ v, (shadow s x).1 = some (x.ofImage v) ∧ s.device.read x.addr.toNat = some v

theorem inSync_psc_iff (s : State) (j : TimerIndex) : InSync s (.psc j) ↔ ((s.timer j).pscUns = false →
    (s.timer j).psc.isSome ∧ s.device.read (pscReg j).toNat = (s.timer j).psc.map (· - 1)) := by
  refine imp_congr_right fun _ => ⟨?_, ?_⟩
  · rintro ⟨v, hv, hread⟩
    have hv : (s.timer j).psc = some (v + 1) := hv
    rw [hv]
    exact ⟨rfl, hread.trans (by simp)⟩
  · rintro ⟨hsome, hread⟩
    obtain ⟨p, hp⟩ := Option.isSome_iff_exists.1 hsome
    rw [hp] at hread
    exact ⟨p - 1, hp.trans (by simp [Reg.ofImage]), hread⟩

theorem inSync_arr_iff (s : State) (j : TimerIndex) : InSync s (.arr j) ↔ ((s.timer j).arrUns = false →
    s.device.read (arrReg j).toNat = some (s.timer j).arr) := by
  refine imp_congr_right fun _ => ⟨?_, fun hread => ⟨_, rfl, hread⟩⟩
  rintro ⟨v, hv, hread⟩
  exact hread.trans hv.symm

theorem inSync_pw_iff (s : State) (c : Channel) : InSync s (.pw c) ↔ ((s.channel c).pwUns = false →
    (s.channel c).pw.isSome ∧ s.device.read (pwReg c).toNat = (s.channel c).pw) := by
  refine imp_congr_right fun _ => ⟨?_, ?_⟩
  · rintro ⟨v, hv, hread⟩
    have hv : (s.channel c).pw = some v := hv
    rw [hv]
    exact ⟨rfl, hread⟩
  · rintro ⟨hsome, hread⟩
    obtain ⟨v, hv⟩ := Option.isSome_iff_exists.1 hsome
    exact ⟨v, hv, hread.trans hv⟩

/-- `State.Synced` speaks of all 34 registers alike. -/
theorem synced_iff (s : State) : s.Synced ↔ ∀ x : Reg, s.Settled x.addr → InSync s x := by
  constructor
  · rintro ⟨hpsc, harr, hpw⟩ x hx
    cases x with
    | psc j => exact (inSync_psc_iff s j).2 fun hf => hpsc j hf hx
    | arr j => exact (inSync_arr_iff s j).2 fun hf => harr j hf hx
    | pw c => exact (inSync_pw_iff s c).2 fun hf => hpw c hf hx
  · intro h
    exact ⟨fun j hf hx => (inSync_psc_iff s j).1 (h (.psc j) hx) hf, fun j hf hx => (inSync_arr_iff s j).1 (h (.arr j) hx) hf,
      fun c hf hx => (inSync_pw_iff s c).1 (h (.pw c) hx) hf⟩

section Sync

variable {s t u v : State} {w : Write} {es : List BusEvent}

theorem InSync.congr {x : Reg} (h : InSync s x) (hsh : shadow t x = shadow s x)
    (hread : t.device.read x.addr.toNat = s.device.read x.addr.toNat) : InSync t x := by
  rw [InSync, hsh, hread]
  exact h

theorem synced_of_inSync (h : ∀ x, InSync s x) : s.Synced := (synced_iff s).2 fun x _ => h x

/-- With no write outstanding, every register is settled. -/
theorem inSync_of_synced (h : s.Synced) (hout : s.outstanding = none) (x : Reg) : InSync s x :=
  (synced_iff s).1 h x (by simp [State.Settled, hout])

/-- After a whole-block reset every sync flag is 1. -/
theorem inSync_blockReset (s : State) (x : Reg) : InSync s.blockReset x := by
  intro h
  cases x <;> simp [shadow, timer_blockReset, channel_blockReset, TimerRegs.reset, ChannelRegs.reset] at h

/-- An answer brings its register in sync or raises its flag, and leaves every other register and shadow. -/
theorem inSync_onAnswer (h : ∀ x, InSync u x) (a : BusAnswer) (es : List BusEvent) (x : Reg) :
    InSync (Shadows.onAnswer w.kind a ((u.issue w.kind.request).answered w.kind.request a es)) x := by
  have hdev : (Shadows.onAnswer w.kind a ((u.issue w.kind.request).answered w.kind.request a es)).device =
      ((u.issue w.kind.request).answered w.kind.request a es).device := by
    cases a with
    | ok => exact Device.ack_device _ _
    | fail => exact Device.fail_device _ _
  by_cases hx : x = target w.kind
  · subst hx
    intro hf
    have hsh := shadow_onAnswer_target w.inRange a ((u.issue w.kind.request).answered w.kind.request a es)
    rw [hsh] at hf ⊢
    cases a with
    | ok => exact ⟨w.kind.request.value, rfl, by rw [hdev, addr_target, read_issue_answered]; simp [Kind.request]⟩
    | fail => cases hf
  · refine (h x).congr (shadow_onAnswer_of_ne a _ hx) ?_
    have hne : w.kind.request.reg.toNat ≠ x.addr.toNat := fun he =>
      hx (addr_inj ((BitVec.eq_of_toNat_eq he).symm.trans (addr_target w.kind).symm))
    rw [hdev, read_issue_answered, if_neg hne]

/-- The registers other than the one a request stands for are as in sync as before it. -/
theorem synced_issue (h : ∀ x, InSync u x) (q : BusRequest) : (u.issue q).Synced := by
  refine (synced_iff _).2 fun x hx => (h x).congr rfl (read_forget_ne _ fun he => ?_)
  exact hx q rfl (BitVec.eq_of_toNat_eq he.symm)

end Sync

/-- What holds before each write of a command, where the device is not reset: every shadow is in sync. -/
def SyncedBetween (s : State) : Prop := .deviceReset ∉ s.busEvents ∧ ∀ x, InSync s x

/-- A command that begins with every shadow in sync, on a device that is not reset, ends so. -/
theorem exec_synced {i : Instr} {s t : State} (h : SyncedBetween s) (ht : exec i s = .next t) : t.Synced := by
  cases exec_shape i s with
  | answered st r hexec =>
    obtain rfl : s.deliver _ = t := by simpa [hexec] using ht
    exact synced_of_inSync h.2
  | writes pre post ws r hpre hpost _ _ _ hexec =>
    have heq {u v : State} {q : BusRequest} (hQ : SyncedBetween u) (hv : Waiting u q v) : v = u.issue q :=
      hv.resolve_right fun hv => hQ.1 hv.2
    have hneutral {f : State → State} (hf : Neutral f) {u : State} (hu : ∀ x, InSync u x) (x : Reg) : InSync (f u) x :=
      (hu x).congr (by rw [shadow_neutral hf]) (by rw [hf.device])
    refine runWrites_elim (Q := fun _ _ u => SyncedBetween u) (fun n u hQ hu => ?_)
      (fun w ws n u v es hQ hv hs => ?_) (fun w ws n u v es hQ hv hs => ?_)
      (fun w ws n u v hQ hv => ?_) (fun w ws n u v es hQ hv hs _ => synced_of_inSync (inSync_blockReset _))
      (fun w ws n u v es hQ hv hs _ => synced_of_inSync (inSync_blockReset _))
      ws 0 (pre s) ⟨by rw [hpre.busEvents]; exact h.1, hneutral hpre h.2⟩ (hexec.symm.trans ht)
    · obtain rfl : (post u).deliver _ = t := by simpa using hu
      exact synced_of_inSync (hneutral hpost hQ.2)
    · obtain rfl := heq hQ hv
      refine ⟨fun hm => hQ.1 (hs.subset ?_), hneutral w.neutral (inSync_onAnswer hQ.2 .ok es)⟩
      rwa [w.neutral.busEvents, show w.kind.ack = onAnswer w.kind .ok from rfl, onAnswer_busEvents] at hm
    · obtain rfl := heq hQ hv
      exact synced_of_inSync (inSync_onAnswer hQ.2 .fail es)
    · obtain rfl := heq hQ hv
      exact synced_issue hQ.2 w.kind.request

theorem runCommand_synced {w : CommandWord} {s t : State} (h : SyncedBetween s) (ht : runCommand w s = .next t) : t.Synced := by
  obtain ⟨i, -, hi⟩ | rfl := runCommand_cases ht
  · exact exec_synced (s := s.accept) h hi
  · exact synced_of_inSync h.2

theorem noDeviceReset_of_kept {s t : State} (h : s.NoDeviceReset) (hkept : Kept s t) : t.NoDeviceReset := by
  obtain ⟨hinbox, hes⟩ := h
  exact ⟨hkept.inbox ▸ hinbox, fun hm => hes (hkept.busEvents.subset hm)⟩

theorem noDeviceReset_took {s : State} {e : HostEvent} {rest : List HostEvent} (h : s.NoDeviceReset) (hinbox : s.inbox = e :: rest) :
    (took s rest).NoDeviceReset :=
  ⟨fun hm => h.1 (hinbox ▸ List.mem_cons_of_mem e hm), h.2⟩

/-- Settles O18: before each write of a command all shadows are in sync, an answer keeps them so, and a reset raises all flags. -/
theorem stepKeepsShadowsSynced : Obligations.StepKeepsShadowsSynced := by
  intro s t hno hlegal hsync ht
  obtain ⟨hphase, hstep⟩ := step_cases ht
  have hin : ∀ x, InSync s x := inSync_of_synced hsync (outstanding_none_of_idle hlegal hphase)
  cases hstep with
  | waits => exact ⟨hno, hsync⟩
  | @command _ rest _ hinbox hrun =>
    have hto := noDeviceReset_took hno hinbox
    exact ⟨noDeviceReset_of_kept hto (runCommand_kept hrun), runCommand_synced (s := took s rest) ⟨hno.2, hin⟩ hrun⟩
  | @abandons _ rest u hinbox hrun =>
    have hto := noDeviceReset_took hno hinbox
    exact ⟨noDeviceReset_of_kept (t := u) hto (runCommand_kept hrun), synced_of_inSync (inSync_blockReset _)⟩
  | reset hinbox => exact ⟨noDeviceReset_took (s := s) hno hinbox, synced_of_inSync (inSync_blockReset _)⟩
  | deviceReset hinbox => exact absurd (hinbox ▸ List.mem_cons_self) hno.1

/-! ## The state after reset -/

/-- Settles O16: the reset records are legal, their flags are 1 and their claims none, and nothing is at the ports or known of the device. -/
theorem resetStateIsLegal : Obligations.ResetStateIsLegal := by
  intro b
  have ht := Reset.timer_resetWith b
  have hc := Reset.channel_resetWith b
  refine ⟨Sound.legal_of_idle ⟨fun i => ht i ▸ legal_timerReset, fun c => hc c ▸ legal_channelReset, wf_nil,
    fun _ h => absurd h List.not_mem_nil, fun _ h => absurd h List.not_mem_nil⟩ rfl rfl, ?_, fun _ c hreq => ?_⟩
  · refine synced_of_inSync fun x hf => ?_
    cases x <;> simp [shadow, TimerRegs.reset, ChannelRegs.reset, ht, hc] at hf
  · exact absurd (by rw [hc]; rfl) hreq

end Sys2Proof.Proofs.Invariants
end

section
/-! SUPPORT. The claims of the channels (10_state.md R26, 40_timer.md R103 to R105): under `CONFLICT_CHECK` every step keeps them true of their
timers' shadows, and two equal ones lock their group; without it they have no observable effect. -/

namespace Sys2Proof.Proofs.Claims

open Sys2Proof Sys2Proof.Machine Sys2Proof.Machine.Laws Sys2Proof.Proofs.Steps

/-! ## Claims that describe their timer -/

/-- The timer's shadows hold the divider and period that the claim stands for (R105). -/
def Describes (x : Claim) (r : TimerRegs) : Prop :=
  ∃ q ∈ claimedValues x, r.psc = some (BitVec.ofNat 16 q.p) ∧ r.arr = BitVec.ofNat 16 q.T

/-- `s` and `t` hold the same claims and the same timer values. -/
structure SameClaims (s t : State) : Prop where
  conflictCheck : t.conflictCheck = s.conflictCheck
  psc : ∀ j, (t.timer j).psc = (s.timer j).psc
  arr : ∀ j, (t.timer j).arr = (s.timer j).arr
  req : ∀ c, (t.channel c).req = (s.channel c).req

/-- Every claim in the timer group of `c` is `new`, if the check is on. -/
def GroupClaims (s : State) (c : Channel) (new : Claim) : Prop :=
  s.conflictCheck = true → ∀ c', timerOf c' = timerOf c → (s.channel c').req ≠ .unclaimed → (s.channel c').req = new

section Describes

variable {s t : State} {c : Channel} {new : Claim}

theorem SameClaims.of_eq (hcheck : t.conflictCheck = s.conflictCheck) (ht : t.timers = s.timers) (hc : t.channels = s.channels) :
    SameClaims s t :=
  ⟨hcheck, fun j => by rw [timer_of_timers_eq ht], fun j => by rw [timer_of_timers_eq ht],
    fun c => by rw [channel_of_channels_eq hc]⟩

theorem SameClaims.claimsHold (h : SameClaims s t) (hs : s.ClaimsHold) : t.ClaimsHold := by
  intro hcheck c hreq
  rw [h.req] at hreq ⊢
  rw [h.psc, h.arr]
  exact hs (h.conflictCheck ▸ hcheck) c hreq

theorem SameClaims.groupClaims (h : SameClaims s t) (hs : GroupClaims s c new) : GroupClaims t c new := by
  intro hcheck c' hc' hreq
  rw [h.req] at hreq ⊢
  exact hs (h.conflictCheck ▸ hcheck) c' hc' hreq

theorem sameClaims_modChannel (s : State) (c : Channel) {f : ChannelRegs → ChannelRegs} (hf : ∀ r, (f r).req = r.req) :
    SameClaims s (s.modChannel c f) where
  conflictCheck := rfl
  psc j := by rw [timer_modChannel]
  arr j := by rw [timer_modChannel]
  req c' := by
    by_cases hc : c' = c
    · rw [hc, channel_modChannel_same, hf]
    · rw [channel_modChannel_ne s f hc]

theorem sameClaims_modTimer (s : State) (j : TimerIndex) {f : TimerRegs → TimerRegs}
    (hf : ∀ r, (f r).psc = r.psc ∧ (f r).arr = r.arr) : SameClaims s (s.modTimer j f) where
  conflictCheck := rfl
  psc i := by
    by_cases hi : i = j
    · rw [hi, timer_modTimer_same, (hf _).1]
    · rw [timer_modTimer_ne s f hi]
  arr i := by
    by_cases hi : i = j
    · rw [hi, timer_modTimer_same, (hf _).2]
    · rw [timer_modTimer_ne s f hi]
  req c' := by rw [channel_modTimer]

theorem claimsHold_blockReset (s : State) : s.blockReset.ClaimsHold :=
  fun _ c hreq => absurd (by rw [channel_blockReset]; rfl) hreq

/-- A claim that describes its timer, or none, may be set. -/
theorem claimsHold_setReq (h : s.ClaimsHold) (hnew : new ≠ .unclaimed → Describes new (s.timer (timerOf c))) :
    (s.setReq c new).ClaimsHold := by
  intro hcheck c' hreq
  rw [setReq_eq, timer_modChannel] at *
  by_cases hc : c' = c
  · subst hc
    rw [channel_modChannel_same] at hreq ⊢
    exact hnew hreq
  · rw [channel_modChannel_ne s _ hc] at hreq ⊢
    exact h hcheck c' hreq

/-- A timer may change as long as the one claim its group holds still describes it. -/
theorem claimsHold_modTimer (h : s.ClaimsHold) (hgroup : GroupClaims s c new) {f : TimerRegs → TimerRegs}
    (hf : ∀ r, Describes new r → Describes new (f r)) : (s.modTimer (timerOf c) f).ClaimsHold := by
  intro hcheck c' hreq
  rw [channel_modTimer] at hreq ⊢
  have hold := h hcheck c' hreq
  by_cases hc : timerOf c' = timerOf c
  · rw [hgroup hcheck c' hc hreq] at hold ⊢
    rw [hc] at hold ⊢
    rw [timer_modTimer_same]
    exact hf _ hold
  · rwa [timer_modTimer_ne s f hc]

/-- Past the conflict check, and with its own claim withdrawn, a channel finds only the claim it will leave in its group (R103). -/
theorem groupClaims_of_not_blocked (hb : ¬ s.Blocked c new) : GroupClaims (s.setReq c .unclaimed) c new := by
  intro hcheck c' hc' hreq
  rw [setReq_eq] at hreq ⊢
  by_cases hc : c' = c
  · subst hc
    exact absurd (by rw [channel_modChannel_same]) hreq
  · rw [channel_modChannel_ne s _ hc] at hreq ⊢
    by_contra hne
    exact hb ⟨hcheck, c', ⟨hc, hc'⟩, hreq, hne⟩

theorem describes_ackPsc {q : Candidate} (hq : claimedValues new = some q) (r : TimerRegs) (h : Describes new r) :
    Describes new (r.ackPsc q.p) := by
  obtain ⟨q', hq', -, harr⟩ := h
  obtain rfl : q' = q := Option.some.inj (hq'.symm.trans hq)
  exact ⟨q', hq', rfl, harr⟩

theorem describes_ackArr {q : Candidate} (hq : claimedValues new = some q) (r : TimerRegs) (h : Describes new r) :
    Describes new (r.ackArr q.T) := by
  obtain ⟨q', hq', hpsc, -⟩ := h
  obtain rfl : q' = q := Option.some.inj (hq'.symm.trans hq)
  exact ⟨q', hq', hpsc, rfl⟩

theorem not_describes_unclaimed {r : TimerRegs} : ¬ Describes .unclaimed r := by
  rintro ⟨q, hq, -⟩
  cases hq

end Describes

/-! ## Every command keeps the claims true -/

/-- `k` ends in a state whose claims hold, from every state whose claims hold. -/
def KeepsClaims (k : State → Result) : Prop := ∀ s t : State, s.ClaimsHold → k s = .next t → t.ClaimsHold

theorem sameClaims_of_waiting {s u : State} {q : BusRequest} (hu : Waiting s q u) : SameClaims s u := by
  obtain rfl | ⟨rfl, -⟩ := hu <;> exact .of_eq rfl rfl rfl

/-- A shadowed write keeps the claims true if its two answers do: in `u` the answer has come, and claims and timers are as before. -/
theorem claimsHold_shadowedWrite {reg : RegAddr} {v n : Nat} {ack fail : State → State} {s t : State} {k : State → Result}
    (ht : shadowedWrite reg v n ack fail s k = .next t) (hs : s.ClaimsHold) (hfail : ∀ u, SameClaims u (fail u))
    (hk : ∀ u, SameClaims s u → k (ack u) = .next t → t.ClaimsHold) : t.ClaimsHold := by
  refine shadowedWrite_elim _ _ _ _ _ _ ht (fun u es hu _ h => ?_) (fun u es hu _ h => ?_) (fun u hu => ?_)
    (fun _ _ _ _ _ => claimsHold_blockReset _) (fun _ _ _ _ _ => claimsHold_blockReset _)
  all_goals have hsame := sameClaims_of_waiting hu
  · exact hk (u.answered _ .ok es) ⟨hsame.conflictCheck, hsame.psc, hsame.arr, hsame.req⟩ h
  · obtain rfl : State.deliver _ _ = t := Host.Outcome.next.inj h
    exact (SameClaims.of_eq rfl rfl rfl).claimsHold ((hfail (u.answered _ .fail es)).claimsHold (hsame.claimsHold hs))
  · exact (SameClaims.of_eq rfl rfl rfl).claimsHold (hsame.claimsHold hs)

theorem respond_keepsClaims (st : Status) (n : Nat) (r : Operand) : KeepsClaims (respond st n r) := by
  intro s t hs ht
  obtain rfl : s.deliver _ = t := Host.Outcome.next.inj ht
  exact (SameClaims.of_eq rfl rfl rfl).claimsHold hs

theorem raise_keepsClaims (st : Status) (n : Nat) : KeepsClaims (raise st n) := respond_keepsClaims st n 0

theorem KeepsClaims.comp {k : State → Result} (hk : KeepsClaims k) {f : State → State} (hf : ∀ s, SameClaims s (f s)) :
    KeepsClaims fun s => k (f s) :=
  fun s t hs => hk (f s) t ((hf s).claimsHold hs)

theorem setPct_sameClaims (c : Channel) (x : Option Operand) (s : State) : SameClaims s (s.setPct c x) :=
  sameClaims_modChannel s c fun _ => rfl

theorem setAngle_sameClaims (c : Channel) (a : Int) (s : State) : SameClaims s (s.setAngle c a) :=
  sameClaims_modChannel s c fun _ => rfl

theorem writePw_keepsClaims (c : Channel) (v n : Nat) {k : State → Result} (hk : KeepsClaims k) :
    KeepsClaims fun s => writePw c v n s k :=
  fun _ _ hs ht => claimsHold_shadowedWrite ht hs (fun u => sameClaims_modChannel u c fun _ => rfl)
    fun u hu h => hk _ _ ((sameClaims_modChannel u c (f := ChannelRegs.ackPw v) fun _ => rfl).claimsHold (hu.claimsHold hs)) h

theorem rederivePw_keepsClaims (c : Channel) {k : Nat → State → Result} (hk : ∀ n, KeepsClaims (k n)) :
    KeepsClaims fun s => rederivePw c s k := by
  intro s t hs ht
  simp only [rederivePw] at ht
  split at ht
  · exact hk 2 s t hs ht
  · exact writePw_keepsClaims c _ 2 (hk 3) s t hs ht

section Program

variable {s t : State} {c : Channel} {new : Claim} {k : State → Result}

/-- A write of the prescaler register keeps the claims true where the group's one claim allows its value. -/
theorem claimsHold_writePsc {p n : Nat} (hs : s.ClaimsHold) (hgroup : GroupClaims s c new)
    (hp : ∀ r, Describes new r → Describes new (r.ackPsc p))
    (hk : ∀ u, u.ClaimsHold → GroupClaims u c new → (u.timer (timerOf c)).psc = some (BitVec.ofNat 16 p) →
      k u = .next t → t.ClaimsHold)
    (ht : writePsc (timerOf c) p n s k = .next t) : t.ClaimsHold := by
  refine claimsHold_shadowedWrite ht hs (fun u => sameClaims_modTimer u _ fun _ => ⟨rfl, rfl⟩) fun u hu h => ?_
  refine hk _ (claimsHold_modTimer (hu.claimsHold hs) (hu.groupClaims hgroup) hp) (fun hcheck c' hc' => ?_) ?_ h
  · rw [channel_modTimer]
    exact hu.groupClaims hgroup hcheck c' hc'
  · rw [timer_modTimer_same]
    rfl

/-- The same of the period register. -/
theorem claimsHold_writeArr {T n : Nat} (hs : s.ClaimsHold) (hgroup : GroupClaims s c new)
    (hT : ∀ r, Describes new r → Describes new (r.ackArr T))
    (hk : ∀ u, u.ClaimsHold → (u.timer (timerOf c)).psc = (s.timer (timerOf c)).psc →
      (u.timer (timerOf c)).arr = BitVec.ofNat 16 T → k u = .next t → t.ClaimsHold)
    (ht : writeArr (timerOf c) T n s k = .next t) : t.ClaimsHold := by
  refine claimsHold_shadowedWrite ht hs (fun u => sameClaims_modTimer u _ fun _ => ⟨rfl, rfl⟩) fun u hu h => ?_
  refine hk _ (claimsHold_modTimer (hu.claimsHold hs) (hu.groupClaims hgroup) hT) ?_ ?_ h
  all_goals rw [timer_modTimer_same]
  · exact hu.psc _
  · rfl

/-- Timer programming with the values of the claim it leaves, past the conflict check (R104). -/
theorem claimsHold_programTimer {q : Candidate} (hs : s.ClaimsHold) (hb : ¬ s.Blocked c new)
    (hq : claimedValues new = some q) (hk : KeepsClaims k) (ht : programTimer c q.p q.T new s k = .next t) : t.ClaimsHold := by
  refine claimsHold_writePsc (claimsHold_setReq hs fun h => absurd rfl h) (groupClaims_of_not_blocked hb) (describes_ackPsc hq)
    (fun u hu hgroup hpsc h => ?_) ht
  refine claimsHold_writeArr hu hgroup (describes_ackArr hq) (fun v hv hpsc' harr h' => ?_) h
  exact hk _ _ (claimsHold_setReq hv fun _ => ⟨q, hq, hpsc'.trans hpsc, harr⟩) h'

end Program

/-- A command that does not reprogram a timer leaves timers and claims alone; one that does leaves no claim or one of the values it has
written. -/
theorem exec_keepsClaims (i : Instr) : KeepsClaims (exec i) := by
  intro s t hs ht
  cases i with
  | setFreq c F =>
    simp only [exec, execSetFreq] at ht
    split at ht
    · exact raise_keepsClaims _ _ s t hs ht
    cases hr : resolve (freqOperand F) with
    | none =>
      rw [hr] at ht
      exact raise_keepsClaims _ _ s t hs ht
    | some r =>
      simp only [hr] at ht
      split at ht
      · exact raise_keepsClaims _ _ s t hs ht
      · next hc =>
        exact claimsHold_programTimer (new := .freq F) hs (not_blocked_of_conflict (by simpa using hc)) hr
          (rederivePw_keepsClaims c fun _ => respond_keepsClaims _ _ _) ht
  | setPeriod c n =>
    simp only [exec, execSetPeriod] at ht
    split at ht
    · exact raise_keepsClaims _ _ s t hs ht
    split at ht
    · exact raise_keepsClaims _ _ s t hs ht
    · next hc =>
      exact claimsHold_writeArr (claimsHold_setReq hs fun h => absurd rfl h)
        (groupClaims_of_not_blocked (not_blocked_of_conflict (by simpa using hc))) (fun _ h => absurd h not_describes_unclaimed)
        (fun u hu _ _ h => respond_keepsClaims _ _ _ u t hu h) ht
  | setPrescaler c n =>
    simp only [exec, execSetPrescaler] at ht
    split at ht
    · exact raise_keepsClaims _ _ s t hs ht
    split at ht
    · exact raise_keepsClaims _ _ s t hs ht
    · next hc =>
      exact claimsHold_writePsc (claimsHold_setReq hs fun h => absurd rfl h)
        (groupClaims_of_not_blocked (not_blocked_of_conflict (by simpa using hc))) (fun _ h => absurd h not_describes_unclaimed)
        (fun u hu _ _ h => respond_keepsClaims _ _ _ u t hu h) ht
  | servoInit c =>
    simp only [exec, execServoInit] at ht
    split at ht
    · exact raise_keepsClaims _ _ s t hs ht
    · next hc =>
      exact claimsHold_programTimer (q := ⟨Config.servoPrescaler, Config.servoPeriod⟩) hs
        (not_blocked_of_conflict (by simpa using hc)) rfl ((respond_keepsClaims _ _ _).comp (setPct_sameClaims c none)) ht
  | setPw c v => exact writePw_keepsClaims c _ _ ((respond_keepsClaims _ _ _).comp (setPct_sameClaims c none)) s t hs ht
  | setPwPct c P =>
    simp only [exec, execSetPwPct] at ht
    split at ht
    · exact raise_keepsClaims _ _ s t hs ht
    · exact writePw_keepsClaims c _ _ ((respond_keepsClaims _ _ _).comp (setPct_sameClaims c (some P))) s t hs ht
  | servoAngle c A =>
    exact writePw_keepsClaims c _ _ (((respond_keepsClaims _ _ _).comp (setPct_sameClaims c none)).comp
      (setAngle_sameClaims c _)) s t hs ht
  | getFreq | getPeriod | getPrescaler | getPw | getPwPct | getAngle | getSync =>
    obtain ⟨st, r, rfl⟩ := deliver_of_plannedWrites_nil rfl ht
    exact (SameClaims.of_eq rfl rfl rfl).claimsHold hs

theorem runCommand_keepsClaims (w : CommandWord) : KeepsClaims (runCommand w) := by
  intro s t hs ht
  have haccept : s.accept.ClaimsHold := (SameClaims.of_eq rfl rfl rfl).claimsHold hs
  obtain ⟨i, -, hi⟩ | rfl := runCommand_cases ht
  · exact exec_keepsClaims i _ t haccept hi
  · exact (SameClaims.of_eq rfl rfl rfl).claimsHold haccept

/-- Settles O19: a command keeps the claims true of the shadows, a reset leaves none, and no other event reaches either. -/
theorem stepKeepsClaimsTrue : Obligations.StepKeepsClaimsTrue := by
  intro s t hs ht
  have htook (rest : List HostEvent) : (took s rest).ClaimsHold := (SameClaims.of_eq rfl rfl rfl).claimsHold hs
  obtain ⟨-, hstep⟩ := step_cases ht
  cases hstep with
  | waits => exact hs
  | @command w rest _ _ hrun => exact runCommand_keepsClaims w _ t (htook rest) hrun
  | abandons => exact claimsHold_blockReset _
  | reset => exact claimsHold_blockReset _
  | @deviceReset rest => exact (SameClaims.of_eq rfl rfl rfl).claimsHold (htook rest)

/-! ## Equal claims lock their group -/

/-- Of two equal claims in the group of `c`, one is another channel's, and it refuses every other claim. -/
theorem blocked_of_equal_claims {s : State} {c c₁ c₂ : Channel} {new : Claim} (hcheck : s.conflictCheck = true) (hne : c₁ ≠ c₂)
    (hgroup : timerOf c₁ = timerOf c₂) (hclaim : (s.channel c₁).req ≠ .unclaimed)
    (heq : (s.channel c₂).req = (s.channel c₁).req) (hc : timerOf c = timerOf c₁) (hnew : new ≠ (s.channel c₁).req) :
    s.Blocked c new := by
  by_cases h : c₁ = c
  · subst h
    exact ⟨hcheck, c₂, ⟨hne.symm, hgroup.symm⟩, heq ▸ hclaim, heq ▸ hnew.symm⟩
  · exact ⟨hcheck, c₁, ⟨h, hc.symm⟩, hclaim, hnew.symm⟩

/-- A command that would leave a claim the group refuses is rejected, by its operand if not by the claim. -/
theorem exec_of_blocked {s : State} {i : Instr} {new : Claim} (hleft : claimLeft i = some new) (hb : s.Blocked i.channel new) :
    exec i s = .next (s.answeredOnly .conflictError 0) ∨ exec i s = .next (s.answeredOnly .rangeError 0) := by
  cases i with
  | setFreq c F =>
    obtain rfl : Claim.freq F = new := Option.some.inj hleft
    by_cases hF : F = 0
    · exact .inr (Timer.exec_setFreq_range (.inl hF))
    cases hr : resolve F.toNat with
    | none => exact .inr (Timer.exec_setFreq_range (.inr hr))
    | some r => exact .inl (Timer.exec_setFreq_conflict hF hr hb)
  | setPeriod c n =>
    obtain rfl : Claim.unclaimed = new := Option.some.inj hleft
    by_cases hn : n.toNat = 0 ∨ 65535 < n.toNat
    · exact .inr (Timer.exec_setPeriod_range hn)
    · exact .inl (Timer.exec_setPeriod_conflict (by omega) (by omega) hb)
  | setPrescaler c n =>
    obtain rfl : Claim.unclaimed = new := Option.some.inj hleft
    by_cases hn : n.toNat = 0 ∨ 65535 < n.toNat
    · exact .inr (Timer.exec_setPrescaler_range hn)
    · exact .inl (Timer.exec_setPrescaler_conflict (by omega) (by omega) hb)
  | servoInit c =>
    obtain rfl : Claim.servo = new := Option.some.inj hleft
    exact .inl (Servo.exec_servoInit_conflict hb)
  | getFreq | getPeriod | getPrescaler | setPw | getPw | setPwPct | getPwPct | servoAngle | getAngle | getSync => cases hleft

/-- Settles O20: one of the two claims is a sibling's, which refuses the command. -/
theorem equalClaimsLockTheirGroup : Obligations.EqualClaimsLockTheirGroup :=
  fun _ _ _ _ _ hcheck hne hgroup hclaim heq hc hleft hnew =>
    exec_of_blocked hleft (blocked_of_equal_claims hcheck hne hgroup hclaim heq hc hnew)

/-! ## Without the check no claim is observed -/

/-- `s` and `s'` are the same but for the claims, and the conflict check is off. -/
structure SameButClaims (s s' : State) : Prop where
  off : s.conflictCheck = false
  erased : s.eraseClaims = s'.eraseClaims

/-- Both outcomes are next states, which differ in claims only. -/
def EndSameButClaims (r r' : Result) : Prop := ∃ t t', r = .next t ∧ r' = .next t' ∧ SameButClaims t t'

/-- From states that differ in claims only, `k` ends in states that differ in claims only. -/
def IgnoresClaims (k : State → Result) : Prop := ∀ s s', SameButClaims s s' → EndSameButClaims (k s) (k s')

/-- `f` keeps states that differ in claims only so. -/
def RespectsClaims (f : State → State) : Prop := ∀ s s', SameButClaims s s' → SameButClaims (f s) (f s')

section SameButClaims

variable {s s' : State}

theorem SameButClaims.field {α : Type} (h : SameButClaims s s') (f : State → α) (hf : ∀ s, f s.eraseClaims = f s) : f s' = f s := by
  rw [← hf s', ← h.erased, hf]

theorem SameButClaims.channelField {α : Type} (h : SameButClaims s s') (f : ChannelRegs → α)
    (hf : ∀ r, f { r with req := Claim.unclaimed } = f r) (c : Channel) : f (s'.channel c) = f (s.channel c) :=
  h.field (fun s => f (s.channel c)) fun s => by rw [channel_eraseClaims, hf]

theorem SameButClaims.timer (h : SameButClaims s s') (j : TimerIndex) : s'.timer j = s.timer j :=
  h.field (·.timer j) fun _ => rfl

theorem SameButClaims.phase (h : SameButClaims s s') : s'.phase = s.phase := h.field State.phase fun _ => rfl

theorem SameButClaims.inbox (h : SameButClaims s s') : s'.inbox = s.inbox := h.field State.inbox fun _ => rfl

theorem SameButClaims.busEvents (h : SameButClaims s s') : s'.busEvents = s.busEvents := h.field State.busEvents fun _ => rfl

theorem SameButClaims.responses (h : SameButClaims s s') : s'.responses = s.responses := h.field State.responses fun _ => rfl

theorem SameButClaims.off_right (h : SameButClaims s s') : s'.conflictCheck = false :=
  (h.field State.conflictCheck fun _ => rfl).trans h.off

/-- A change that leaves the parameter and does the same to the state without its claims. -/
theorem respectsClaims_of_commutes {f : State → State} (hcheck : ∀ s, (f s).conflictCheck = s.conflictCheck)
    (hf : ∀ s, (f s).eraseClaims = f s.eraseClaims) : RespectsClaims f :=
  fun s s' h => ⟨(hcheck s).trans h.off, by rw [hf, hf, h.erased]⟩

theorem eraseClaims_modChannel (s : State) (c : Channel) {g : ChannelRegs → ChannelRegs}
    (hg : ∀ r, { g r with req := Claim.unclaimed } = g { r with req := Claim.unclaimed }) :
    (s.modChannel c g).eraseClaims = s.eraseClaims.modChannel c g := by
  have h : (s.modChannel c g).eraseClaims.channels = (s.eraseClaims.modChannel c g).channels := by
    rw [eraseClaims_channels, modChannel_channels, modChannel_channels, eraseClaims_channels, channel_eraseClaims,
      Vector.map_set, hg]
  exact congrArg (fun v => { s with channels := v }) h

theorem respectsClaims_modChannel (c : Channel) {g : ChannelRegs → ChannelRegs}
    (hg : ∀ r, { g r with req := Claim.unclaimed } = g { r with req := Claim.unclaimed }) : RespectsClaims (·.modChannel c g) :=
  respectsClaims_of_commutes (fun _ => rfl) fun s => eraseClaims_modChannel s c hg

theorem respectsClaims_modTimer (j : TimerIndex) (f : TimerRegs → TimerRegs) : RespectsClaims (·.modTimer j f) :=
  respectsClaims_of_commutes (fun _ => rfl) fun _ => rfl

theorem respectsClaims_setReq (c : Channel) (x : Claim) : RespectsClaims (·.setReq c x) :=
  fun s s' h => ⟨h.off, by rw [eraseClaims_setReq, eraseClaims_setReq, h.erased]⟩

theorem respectsClaims_setPct (c : Channel) (x : Option Operand) : RespectsClaims (·.setPct c x) :=
  respectsClaims_modChannel c fun _ => rfl

theorem respectsClaims_setAngle (c : Channel) (a : Int) : RespectsClaims (·.setAngle c a) :=
  respectsClaims_modChannel c fun _ => rfl

theorem respectsClaims_blockReset : RespectsClaims State.blockReset := by
  refine respectsClaims_of_commutes (fun _ => rfl) fun s => ?_
  have h : s.blockReset.eraseClaims.channels = s.eraseClaims.blockReset.channels := by
    rw [eraseClaims_channels, blockReset_channels, blockReset_channels, Vector.map_replicate]
    rfl
  exact congrArg (fun v => { s.blockReset with channels := v }) h

end SameButClaims

theorem respond_ignoresClaims (st : Status) (n : Nat) (r : Operand) : IgnoresClaims (respond st n r) :=
  fun s s' h => ⟨_, _, rfl, rfl, respectsClaims_of_commutes (f := (·.deliver _)) (fun _ => rfl) (fun _ => rfl) s s' h⟩

theorem raise_ignoresClaims (st : Status) (n : Nat) : IgnoresClaims (raise st n) := respond_ignoresClaims st n 0

theorem IgnoresClaims.comp {k : State → Result} (hk : IgnoresClaims k) {f : State → State} (hf : RespectsClaims f) :
    IgnoresClaims fun s => k (f s) := fun s s' h => hk (f s) (f s') (hf s s' h)

/-- What happens to an outstanding request does not depend on the claims. -/
theorem awaitAnswer_ignoresClaims (q : BusRequest) {s s' : State} (h : SameButClaims s s') (es : List BusEvent) :
    (∃ a u u', awaitAnswer q s es = .answer a u ∧ awaitAnswer q s' es = .answer a u' ∧ SameButClaims u u') ∨
    ∃ u u', awaitAnswer q s es = .noAnswer u ∧ awaitAnswer q s' es = .noAnswer u' ∧ SameButClaims u u' := by
  have hevents (es : List BusEvent) : RespectsClaims fun s => { s with busEvents := es } :=
    respectsClaims_of_commutes (fun _ => rfl) fun _ => rfl
  have hanswered (a : BusAnswer) (es : List BusEvent) : RespectsClaims (·.answered q a es) :=
    respectsClaims_of_commutes (fun _ => rfl) fun _ => rfl
  have hdeviceReset : RespectsClaims State.deviceReset := respectsClaims_of_commutes (fun _ => rfl) fun _ => rfl
  induction es generalizing s s' with
  | nil => exact .inr ⟨_, _, rfl, rfl, hevents [] s s' h⟩
  | cons e es ih =>
    cases e with
    | ok => exact .inl ⟨.ok, _, _, rfl, rfl, hanswered .ok es s s' h⟩
    | fail => exact .inl ⟨.fail, _, _, rfl, rfl, hanswered .fail es s s' h⟩
    | reset => exact .inr ⟨_, _, rfl, rfl, respectsClaims_blockReset _ _ (hevents es s s' h)⟩
    | okThenReset => exact .inr ⟨_, _, rfl, rfl, respectsClaims_blockReset _ _ (hanswered .ok es s s' h)⟩
    | deviceReset => exact ih (hdeviceReset s s' h)

theorem shadowedWrite_ignoresClaims (reg : RegAddr) (v n : Nat) {ack fail : State → State} {k : State → Result}
    (hack : RespectsClaims ack) (hfail : RespectsClaims fail) (hk : IgnoresClaims k) :
    IgnoresClaims fun s => shadowedWrite reg v n ack fail s k := by
  intro s s' h
  have hissue : RespectsClaims (·.issue ⟨reg, BitVec.ofNat 16 v⟩) := respectsClaims_of_commutes (fun _ => rfl) fun _ => rfl
  obtain ⟨a, u, u', hu, hu', hsame⟩ | ⟨u, u', hu, hu', hsame⟩ :=
    awaitAnswer_ignoresClaims ⟨reg, BitVec.ofNat 16 v⟩ (hissue s s' h) s.busEvents
  all_goals simp only [shadowedWrite, busWrite, h.busEvents, hu, hu']
  · cases a with
    | ok => exact hk _ _ (hack u u' hsame)
    | fail => exact raise_ignoresClaims .busError n _ _ (hfail u u' hsame)
  · exact ⟨u, u', rfl, rfl, hsame⟩

theorem writePsc_ignoresClaims (j : TimerIndex) (p n : Nat) {k : State → Result} (hk : IgnoresClaims k) :
    IgnoresClaims fun s => writePsc j p n s k :=
  shadowedWrite_ignoresClaims _ _ _ (respectsClaims_modTimer j _) (respectsClaims_modTimer j _) hk

theorem writeArr_ignoresClaims (j : TimerIndex) (T n : Nat) {k : State → Result} (hk : IgnoresClaims k) :
    IgnoresClaims fun s => writeArr j T n s k :=
  shadowedWrite_ignoresClaims _ _ _ (respectsClaims_modTimer j _) (respectsClaims_modTimer j _) hk

theorem writePw_ignoresClaims (c : Channel) (v n : Nat) {k : State → Result} (hk : IgnoresClaims k) :
    IgnoresClaims fun s => writePw c v n s k :=
  shadowedWrite_ignoresClaims _ _ _ (respectsClaims_modChannel c fun _ => rfl) (respectsClaims_modChannel c fun _ => rfl) hk

theorem programTimer_ignoresClaims (c : Channel) (p T : Nat) (new : Claim) {k : State → Result} (hk : IgnoresClaims k) :
    IgnoresClaims fun s => programTimer c p T new s k :=
  (writePsc_ignoresClaims _ p 0 <| writeArr_ignoresClaims _ T 1 <| hk.comp (respectsClaims_setReq c new)).comp
    (respectsClaims_setReq c .unclaimed)

theorem rederivePw_ignoresClaims (c : Channel) {k : Nat → State → Result} (hk : ∀ n, IgnoresClaims (k n)) :
    IgnoresClaims fun s => rederivePw c s k := by
  intro s s' h
  simp only [rederivePw, h.channelField ChannelRegs.pct fun _ => rfl, h.timer]
  cases (s.channel c).pct with
  | none => exact hk 2 s s' h
  | some P => exact writePw_ignoresClaims c _ 2 (hk 3) s s' h

/-- With the check off, the claims are read by the conflict check only, which passes. -/
theorem exec_ignoresClaims (i : Instr) : IgnoresClaims (exec i) := by
  intro s s' h
  have hoff := conflict_off h.off
  have hoff' := conflict_off h.off_right
  cases i with
  | setFreq c F =>
    simp only [exec, execSetFreq, hoff, hoff', Bool.false_eq_true, if_false]
    split
    · exact raise_ignoresClaims _ _ s s' h
    cases resolve (freqOperand F) with
    | none => exact raise_ignoresClaims _ _ s s' h
    | some r => exact programTimer_ignoresClaims c _ _ _ (rederivePw_ignoresClaims c fun _ => respond_ignoresClaims _ _ _) s s' h
  | getFreq c =>
    simp only [exec, execGetFreq, h.timer]
    cases (s.timer (timerOf c)).psc <;> exact respond_ignoresClaims _ _ _ s s' h
  | setPeriod c n =>
    simp only [exec, execSetPeriod, hoff, hoff', Bool.false_eq_true, if_false]
    split
    · exact raise_ignoresClaims _ _ s s' h
    · exact (writeArr_ignoresClaims _ _ _ (respond_ignoresClaims _ _ _)).comp (respectsClaims_setReq c .unclaimed) s s' h
  | getPeriod c =>
    simp only [exec, execGetPeriod, h.timer]
    exact respond_ignoresClaims _ _ _ s s' h
  | setPrescaler c n =>
    simp only [exec, execSetPrescaler, hoff, hoff', Bool.false_eq_true, if_false]
    split
    · exact raise_ignoresClaims _ _ s s' h
    · exact (writePsc_ignoresClaims _ _ _ (respond_ignoresClaims _ _ _)).comp (respectsClaims_setReq c .unclaimed) s s' h
  | getPrescaler c =>
    simp only [exec, execGetPrescaler, h.timer]
    cases (s.timer (timerOf c)).psc <;> exact respond_ignoresClaims _ _ _ s s' h
  | setPw c v =>
    exact writePw_ignoresClaims c _ _ ((respond_ignoresClaims _ _ _).comp (respectsClaims_setPct c none)) s s' h
  | getPw c =>
    simp only [exec, execGetPw, h.channelField ChannelRegs.pw fun _ => rfl]
    cases (s.channel c).pw <;> exact respond_ignoresClaims _ _ _ s s' h
  | setPwPct c P =>
    simp only [exec, execSetPwPct, h.timer]
    split
    · exact raise_ignoresClaims _ _ s s' h
    · exact writePw_ignoresClaims c _ _ ((respond_ignoresClaims _ _ _).comp (respectsClaims_setPct c (some P))) s s' h
  | getPwPct c =>
    simp only [exec, execGetPwPct, h.channelField ChannelRegs.pct fun _ => rfl]
    cases (s.channel c).pct <;> exact respond_ignoresClaims _ _ _ s s' h
  | servoInit c =>
    simp only [exec, execServoInit, hoff, hoff', Bool.false_eq_true, if_false]
    exact programTimer_ignoresClaims c _ _ _ ((respond_ignoresClaims _ _ _).comp (respectsClaims_setPct c none)) s s' h
  | servoAngle c A =>
    exact writePw_ignoresClaims c _ _ (((respond_ignoresClaims _ _ _).comp (respectsClaims_setPct c none)).comp
      (respectsClaims_setAngle c _)) s s' h
  | getAngle c =>
    simp only [exec, execGetAngle, h.channelField ChannelRegs.angle fun _ => rfl]
    cases (s.channel c).angle <;> exact respond_ignoresClaims _ _ _ s s' h
  | getSync c =>
    simp only [exec, execGetSync, syncFlags, h.timer, h.channelField ChannelRegs.pwUns fun _ => rfl]
    exact respond_ignoresClaims _ _ _ s s' h

theorem runCommand_ignoresClaims (w : CommandWord) : IgnoresClaims (runCommand w) := by
  have haccept : RespectsClaims State.accept := respectsClaims_of_commutes (fun _ => rfl) fun _ => rfl
  intro s s' h
  simp only [runCommand]
  cases decode w with
  | error e => exact (raise_ignoresClaims .illegal 0).comp haccept s s' h
  | ok i => exact (exec_ignoresClaims i).comp haccept s s' h

theorem takeEvent_ignoresClaims (e : HostEvent) (rest : List HostEvent) : IgnoresClaims (takeEvent e rest) := by
  intro s s' h
  have htook : SameButClaims (took s rest) (took s' rest) :=
    respectsClaims_of_commutes (f := (took · rest)) (fun _ => rfl) (fun _ => rfl) s s' h
  cases e with
  | command w => exact runCommand_ignoresClaims w _ _ htook
  | commandThenReset w =>
    obtain ⟨t, t', ht, ht', hsame⟩ := runCommand_ignoresClaims w _ _ htook
    have hresp : RespectsClaims fun t => { t with responses := s.responses } :=
      respectsClaims_of_commutes (fun _ => rfl) fun _ => rfl
    refine ⟨_, _, takeEvent_commandThenReset ht, takeEvent_commandThenReset ht', ?_⟩
    rw [h.responses]
    exact respectsClaims_blockReset _ _ (hresp t t' hsame)
  | reset => exact ⟨_, _, rfl, rfl, respectsClaims_blockReset _ _ htook⟩
  | deviceReset =>
    exact ⟨_, _, rfl, rfl, respectsClaims_of_commutes (f := State.deviceReset) (fun _ => rfl) (fun _ => rfl) _ _ htook⟩

/-- Settles O21: with the check off, a step does the same to both states but for the claims. -/
theorem claimsUnobservableWithoutCheck : Obligations.ClaimsUnobservableWithoutCheck := by
  intro s₁ s₂ t₁ hoff herased ht
  have h : SameButClaims s₁ s₂ := ⟨hoff, herased⟩
  obtain ⟨hphase, -⟩ := step_cases ht
  cases hinbox : s₁.inbox with
  | nil =>
    obtain rfl : s₁ = t₁ := Host.Outcome.next.inj ((step_nil hphase hinbox).symm.trans ht)
    exact ⟨s₂, step_nil (h.phase.trans hphase) (h.inbox.trans hinbox), herased⟩
  | cons e rest =>
    rw [step_cons hphase hinbox] at ht
    rw [step_cons (h.phase.trans hphase) (h.inbox.trans hinbox)]
    obtain ⟨t, t', ht', ht'', hsame⟩ := takeEvent_ignoresClaims e rest s₁ s₂ h
    obtain rfl : t = t₁ := Host.Outcome.next.inj (ht'.symm.trans ht)
    exact ⟨t', ht'', hsame.erased⟩

end Sys2Proof.Proofs.Claims
end

section
/-! SUPPORT. The numbers (00_scope.md R13): rounding to nearest with ties to even, the square root, the count of a percentage
(41_pulse_width.md), the angle map (42_servo.md R160, R161) and the range of the resolver (40_timer.md). -/

namespace Sys2Proof.Proofs.Numbers

open Sys2Proof Sys2Proof.Machine Sys2Proof.Machine.Laws Sys2Proof.Proofs.Resolver

/-! ## Rounding to nearest -/

theorem rne_eq_div {num den : Nat} (h : 2 * (num % den) < den) : rne num den = num / den := if_pos h

theorem rne_eq_succ {num den : Nat} (h : den < 2 * (num % den)) : rne num den = num / den + 1 := by
  simp only [rne]
  rw [if_neg (by omega), if_pos h]

theorem rne_tie {num den : Nat} (h : 2 * (num % den) = den) :
    rne num den = if num / den % 2 = 0 then num / den else num / den + 1 := by
  simp only [rne]
  rw [if_neg (by omega), if_neg (by omega)]

/-- A fraction is its quotient and its remainder. -/
theorem fract_natDiv (num den : Nat) (hden : 0 < den) :
    (num : ℚ) / den - ⌊(num : ℚ) / den⌋ = ((num % den : Nat) : ℚ) / den := by
  have hden : (den : ℚ) ≠ 0 := by positivity
  have hfloor : ⌊(num : ℚ) / den⌋ = ((num / den : Nat) : ℤ) := Rat.floor_natCast_div_natCast num den
  rw [hfloor, Int.cast_natCast, eq_div_iff hden, sub_mul, div_mul_cancel₀ _ hden, sub_eq_iff_eq_add]
  exact_mod_cast (Nat.mod_add_div' num den).symm

/-- Settles O32: `isqrt` is the library's root, and `rne` compares twice the remainder with the denominator. -/
theorem exactRootAndRounding : Obligations.ExactRootAndRounding := by
  refine ⟨fun n s => ?_, fun q s hq => ?_, fun num den hden => ?_⟩
  · rw [isqrt_eq_sqrt, Nat.le_sqrt]
  · rw [isqrt_eq_sqrt, Nat.le_sqrt, Int.le_toNat (Int.floor_nonneg.2 hq), Int.le_floor]
    exact Iff.rfl
  · intro q r
    have hpos : (0 : ℚ) < den := by exact_mod_cast hden
    have hfloor : ⌊q⌋ = ((num / den : Nat) : ℤ) := Rat.floor_natCast_div_natCast num den
    have hr : r = ((num % den : Nat) : ℚ) / den := fract_natDiv num den hden
    rw [hr, hfloor, div_lt_div_iff₀ hpos two_pos, div_lt_div_iff₀ two_pos hpos, div_eq_div_iff hpos.ne' two_ne_zero]
    refine ⟨fun h => ?_, fun h => ?_, fun h => ?_⟩
    · rw [rne_eq_div (by rw [Nat.mul_comm]; exact_mod_cast one_mul (den : ℚ) ▸ h)]
    · rw [rne_eq_succ (by rw [Nat.mul_comm]; exact_mod_cast one_mul (den : ℚ) ▸ h)]
      push_cast
      rfl
    · rw [rne_tie (by rw [Nat.mul_comm]; exact_mod_cast one_mul (den : ℚ) ▸ h)]
      refine ⟨fun heven => ?_, fun hodd => ?_⟩
      · rw [if_pos (by omega)]
      · rw [if_neg (by omega)]
        push_cast
        rfl

/-- Rounding is off by at most a half, and by exactly a half only on an even number. -/
theorem abs_sub_rne_le {num den : Nat} (hden : 0 < den) :
    |(num : ℚ) / den - rne num den| ≤ 1 / 2 ∧ (|(num : ℚ) / den - rne num den| = 1 / 2 → rne num den % 2 = 0) := by
  have hpos : (0 : ℚ) < den := by exact_mod_cast hden
  have hsplit : (num : ℚ) / den = ((num / den : Nat) : ℚ) + ((num % den : Nat) : ℚ) / den := by
    have h := fract_natDiv num den hden
    rw [Rat.floor_natCast_div_natCast] at h
    exact sub_eq_iff_eq_add'.1 h
  have hr0 : 0 ≤ ((num % den : Nat) : ℚ) / den := by positivity
  have hr1 : ((num % den : Nat) : ℚ) / den < 1 := (div_lt_one hpos).2 (by exact_mod_cast Nat.mod_lt num hden)
  obtain h | h | h := Nat.lt_trichotomy (2 * (num % den)) den
  · have hhalf : ((num % den : Nat) : ℚ) / den < 1 / 2 := by
      rw [div_lt_div_iff₀ hpos two_pos]
      exact_mod_cast (by omega : num % den * 2 < 1 * den)
    rw [rne_eq_div h, hsplit, add_sub_cancel_left, abs_of_nonneg hr0]
    exact ⟨hhalf.le, fun he => absurd he hhalf.ne⟩
  · have hhalf : ((num % den : Nat) : ℚ) / den = 1 / 2 := by
      rw [div_eq_div_iff hpos.ne' two_ne_zero]
      exact_mod_cast (by omega : num % den * 2 = 1 * den)
    rw [rne_tie h, hsplit, hhalf]
    split
    · next heven => exact ⟨by rw [add_sub_cancel_left]; norm_num, fun _ => heven⟩
    · refine ⟨?_, fun _ => by omega⟩
      rw [Nat.cast_succ, add_sub_add_left_eq_sub]
      norm_num
  · have hhalf : 1 / 2 < ((num % den : Nat) : ℚ) / den := by
      rw [div_lt_div_iff₀ two_pos hpos]
      exact_mod_cast (by omega : 1 * den < num % den * 2)
    rw [rne_eq_succ h, hsplit, Nat.cast_succ, add_sub_add_left_eq_sub, abs_of_nonpos (by linarith)]
    exact ⟨by linarith, fun he => by linarith⟩

theorem div_le_rne (num den : Nat) : num / den ≤ rne num den := by
  simp only [rne]
  split_ifs <;> omega

theorem rne_le_succ_div (num den : Nat) : rne num den ≤ num / den + 1 := by
  simp only [rne]
  split_ifs <;> omega

/-- Rounding keeps the order: within one quotient it is the remainder that decides. -/
theorem rne_mono {m n : Nat} (h : m ≤ n) (den : Nat) : rne m den ≤ rne n den := by
  obtain hlt | heq := (Nat.div_le_div_right (c := den) h).lt_or_eq
  · exact (rne_le_succ_div m den).trans (Nat.le_trans hlt (div_le_rne n den))
  · have hmod : m % den ≤ n % den := by
      have hm := Nat.div_add_mod m den
      have hn := Nat.div_add_mod n den
      rw [heq] at hm
      omega
    simp only [rne, heq]
    split_ifs <;> omega

theorem rne_mul_left (num den : Nat) {k : Nat} (hk : 0 < k) : rne (k * num) (k * den) = rne num den := by
  have hlt {a b : Nat} : 2 * (k * a) < k * b ↔ 2 * a < b := by rw [Nat.mul_left_comm, Nat.mul_lt_mul_left hk]
  have hgt {a b : Nat} : 2 * (k * a) > k * b ↔ 2 * a > b := by rw [gt_iff_lt, Nat.mul_left_comm, Nat.mul_lt_mul_left hk]
  simp only [rne, Nat.mul_div_mul_left _ _ hk, Nat.mul_mod_mul_left, hlt, hgt]

theorem rne_mul_self (n : Nat) {den : Nat} (hden : 0 < den) : rne (den * n) den = n := by
  rw [rne_eq_div (by rwa [Nat.mul_mod_right]), Nat.mul_div_cancel_left n hden]

/-! ## The count of a percentage -/

/-- Settles O45: a share of at most the whole rounds to at most the period, and none and the whole round to themselves. -/
theorem pctCountStaysInPeriod : Obligations.PctCountStaysInPeriod := by
  refine fun P arr => ⟨fun hP => PulseWidth.pctCount_le hP arr, ?_, rne_mul_self arr.toNat (by decide)⟩
  rw [pctCount, Nat.zero_mul]
  rfl

/-! ## The angle map -/

/-- The fraction of `servoCount` in lowest common terms: `u` is the clamped angle above -90 degrees. -/
theorem servoCount_eq_rne (A : Int) :
    servoCount A = rne (9434880 + 819 * (max (-23040) (min A 23040) + 23040).toNat) 92160 := by
  rw [servoCount_eq, clampAngle_eq, ← rne_mul_left _ 92160 (k := 10000) (by decide)]
  congr 1
  omega

theorem servoCount_min : servoCount (-23040) = 102 := by decide

theorem servoCount_max : servoCount 23040 = 512 := by decide

theorem servoCount_mono {A B : Int} (h : A ≤ B) : servoCount A ≤ servoCount B := by
  rw [servoCount_eq_rne, servoCount_eq_rne]
  exact rne_mono (by omega) _

/-- An angle beyond an end has the count of the end. -/
theorem servoCount_clamp (A : Int) : servoCount (max (-23040) (min A 23040)) = servoCount A := by
  rw [servoCount_eq_rne, servoCount_eq_rne]
  congr 3
  omega

theorem servoCount_bounds (A : Int) : 102 ≤ servoCount A ∧ servoCount A ≤ 512 := by
  rw [← servoCount_clamp A, ← servoCount_min, ← servoCount_max]
  exact ⟨servoCount_mono (by omega), servoCount_mono (by omega)⟩

/-- The pulse's share of the frame times the period, as the fraction that `servoCount` rounds. -/
theorem pulse_eq (a : Int) (ha : -23040 ≤ a) :
    (500 + ((a : ℚ) / 256 + 90) / 180 * 2000) / 20000 * 4095 = ((9434880 + 819 * (a + 23040).toNat : Nat) : ℚ) / (92160 : Nat) := by
  have hcast : (((a + 23040).toNat : Nat) : ℚ) = a + 23040 := by
    have h : (((a + 23040).toNat : Nat) : ℤ) = a + 23040 := Int.toNat_of_nonneg (by omega)
    exact_mod_cast congrArg (Int.cast : ℤ → ℚ) h
  push_cast
  rw [hcast]
  ring

/-- Settles O47: the map is one fraction rounded to nearest, which grows with the angle between its two ends. -/
theorem servoCountIsLinearMap : Obligations.ServoCountIsLinearMap := by
  refine ⟨?_, fun _ _ => servoCount_mono, servoCount_min, servoCount_max⟩
  intro A a pulse x
  have hx : x = _ := pulse_eq a (by omega)
  have hcount : servoCount A = rne (9434880 + 819 * (a + 23040).toNat) 92160 := servoCount_eq_rne A
  obtain ⟨hnear, heven⟩ := abs_sub_rne_le (num := 9434880 + 819 * (a + 23040).toNat) (den := 92160) (by decide)
  obtain ⟨hmin, hmax⟩ := servoCount_bounds A
  rw [← hcount, ← hx] at hnear heven
  exact ⟨hnear, heven, hcount, hmin, hmax⟩

/-- The fraction is halfway between two integers for one residue of the angle. -/
theorem tie_iff (a : Int) : 2 * ((9434880 + 819 * (a + 23040)) % 92160) = 92160 ↔ a % 10240 = 1280 := by omega

/-- Settles O48: five angles within the clamp have the residue of a tie, and the count is evaluated at each. -/
theorem servoCountTies : Obligations.ServoCountTies := by
  refine ⟨fun a h1 h2 => ?_, by decide, by decide, by decide, by decide, by decide⟩
  rw [tie_iff]
  omega

/-! ## The range of the resolver -/

/-- `floor(K / F)`, the product of divider and period that the resolver looks for. -/
def product (F : Nat) : Nat := 4718592000000 / F

theorem candidate_T (F p : Nat) : (candidate F p).T = product F / p := (Nat.div_div_eq_div_mul _ F p).symm

theorem firstDivider_eq (F : Nat) : firstDivider F = max 1 (Nat.sqrt (product F) - 5) := by
  rw [firstDivider, isqrt_eq_sqrt]
  rfl

theorem programmable_iff (F p : Nat) :
    (candidate F p).programmable = true ↔ 1 ≤ product F / p ∧ product F / p ≤ 65535 ∧ p ≤ 65535 := by
  simp only [Candidate.programmable, Bool.and_eq_true, decide_eq_true_eq, candidate_T, and_assoc]
  rfl

/-- All ten candidates are programmable exactly where none is left out of the window. -/
theorem length_window_iff (F : Nat) :
    (window F).length = 10 ↔ ∀ i < 10, (candidate F (firstDivider F + i)).programmable = true := by
  have hlength : ((List.range Config.searchWidth).map fun i => candidate F (firstDivider F + i)).length = 10 := by
    rw [List.length_map, List.length_range]
    rfl
  rw [window, ← hlength, List.length_filter_eq_length_iff, List.forall_mem_map]
  simp only [List.mem_range]
  rfl

section Range

variable {F : Nat}

theorem sqrt_product_ge (h1 : 1 ≤ F) (h : F ≤ 1098) : 65554 ≤ Nat.sqrt (product F) := by
  have hprod : 4718592000000 / 1098 ≤ product F := Nat.div_le_div_left h h1
  exact Nat.le_sqrt.2 ((by decide : 65554 * 65554 ≤ 4718592000000 / 1098).trans hprod)

theorem sqrt_product_le (h : 1099 ≤ F) : Nat.sqrt (product F) ≤ 65525 := by
  have hprod : product F ≤ 4718592000000 / 1099 := Nat.div_le_div_left h (by decide)
  exact Nat.le_of_lt_succ (Nat.sqrt_lt.2 (hprod.trans_lt (by decide)))

/-- Below 1099 the whole window lies above the largest divider. -/
theorem firstDivider_gt (h1 : 1 ≤ F) (h : F ≤ 1098) : 65535 < firstDivider F := by
  have hsqrt := sqrt_product_ge h1 h
  rw [firstDivider_eq]
  omega

/-- Above K every period is 0. -/
theorem candidate_T_eq_zero (h : 4718592000000 < F) (p : Nat) : (candidate F p).T = 0 := by
  rw [candidate_T, product, Nat.div_eq_of_lt h, Nat.zero_div]

/-- From 1099 to K the root of the product is itself a divider of the window whose period fits. -/
theorem sqrt_mem_window (h1 : 1099 ≤ F) (h2 : F ≤ 4718592000000) : candidate F (Nat.sqrt (product F)) ∈ window F := by
  have hprod : 1 ≤ product F := Nat.div_pos h2 (by omega)
  have hle := Nat.sqrt_le (product F)
  have hlt : product F < (Nat.sqrt (product F) + 1) * (Nat.sqrt (product F) + 1) := Nat.lt_succ_sqrt (product F)
  have hpos : 1 ≤ Nat.sqrt (product F) := Nat.sqrt_pos.2 hprod
  have hmax := sqrt_product_le h1
  rw [candidate_mem_window_iff, firstDivider_eq, candidate_T]
  generalize Nat.sqrt (product F) = r at *
  refine ⟨by omega, by omega, Nat.div_pos (by nlinarith) hpos, ?_, by omega⟩
  exact Nat.le_of_lt_succ (Nat.div_lt_of_lt_mul (by nlinarith))

/-- From 1099 to 7.2 MHz the product is at least 10, and all ten dividers are at most it and give a period that fits. -/
theorem window_programmable (h1 : 1099 ≤ F) (h2 : F ≤ 7200000 * 65536) {i : Nat} (hi : i < 10) :
    (candidate F (firstDivider F + i)).programmable = true := by
  have hprod : 10 ≤ product F := (Nat.le_div_iff_mul_le (by omega)).2 (by omega)
  have hle := Nat.sqrt_le (product F)
  have hlt : product F < (Nat.sqrt (product F) + 1) * (Nat.sqrt (product F) + 1) := Nat.lt_succ_sqrt (product F)
  have hmax := sqrt_product_le h1
  rw [programmable_iff, firstDivider_eq]
  generalize Nat.sqrt (product F) = r at *
  generalize product F = N at *
  have hp : max 1 (r - 5) + i ≤ N := by
    obtain hr | hr := (Nat.lt_or_ge 6 r).symm
    · omega
    · have : 7 * r ≤ r * r := Nat.mul_le_mul_right r hr
      omega
  have hfit : N < (max 1 (r - 5) + i) * 65536 := by
    obtain hr | hr := (Nat.lt_or_ge 6 r).symm
    · have : (r + 1) * (r + 1) ≤ 7 * 7 := Nat.mul_le_mul (by omega) (by omega)
      omega
    · have : (r + 1) * (r + 1) ≤ (r - 5) * 65536 := by
        obtain ⟨k, rfl⟩ := Nat.exists_eq_add_of_lt hr
        rw [show 6 + k + 1 - 5 = k + 2 by omega]
        nlinarith
      omega
  exact ⟨Nat.div_pos hp (by omega), Nat.le_of_lt_succ (Nat.div_lt_of_lt_mul hfit), by omega⟩

/-- Above 7.2 MHz the product is less than 10, which the tenth divider exceeds. -/
theorem tenth_not_programmable (h : 7200000 * 65536 < F) : (candidate F (firstDivider F + 9)).programmable ≠ true := by
  have hprod : product F < 10 := (Nat.div_lt_iff_lt_mul (by omega)).2 (by omega)
  have hfirst : 1 ≤ firstDivider F := Nat.le_max_left _ _
  rw [Ne, programmable_iff, Nat.div_eq_of_lt (by omega)]
  omega

theorem resolve_isSome_iff (h : 1 ≤ F) : (resolve F).isSome ↔ 1099 ≤ F ∧ F ≤ 4718592000000 := by
  rw [← Option.ne_none_iff_isSome, Ne, resolve_eq_none_iff]
  constructor
  · intro hmem
    by_contra hF
    refine hmem fun c hc => ?_
    obtain ⟨hcand, hfirst, -, -⟩ := mem_window_iff.1 hc
    obtain ⟨-, hp, hT, -⟩ := mem_window hc
    obtain hlow | hhigh : F ≤ 1098 ∨ 4718592000000 < F := by omega
    · exact absurd (firstDivider_gt h hlow) (by omega)
    · rw [← hcand, candidate_T_eq_zero hhigh] at hT
      omega
  · rintro ⟨h1, h2⟩ hnone
    exact hnone _ (sqrt_mem_window h1 h2)

theorem length_window_eq_ten_iff (h : 1 ≤ F) : (window F).length = 10 ↔ 1099 ≤ F ∧ F ≤ 7200000 * 65536 := by
  rw [length_window_iff]
  constructor
  · intro hall
    by_contra hF
    obtain hlow | hhigh : F ≤ 1098 ∨ 7200000 * 65536 < F := by omega
    · obtain ⟨-, -, hp⟩ := (programmable_iff F _).1 (hall 0 (by decide))
      exact absurd (firstDivider_gt h hlow) (by omega)
    · exact tenth_not_programmable hhigh (hall 9 (by decide))
  · rintro ⟨h1, h2⟩ i hi
    exact window_programmable h1 h2 hi

end Range

/-- Settles O34: the two ranges from the bounds on the product and its root, and the instances by evaluation. -/
theorem resolverRange : Obligations.ResolverRange :=
  ⟨fun _ => resolve_isSome_iff, fun _ => length_window_eq_ten_iff, fun _ p h => candidate_T_eq_zero h p, by decide,
    by decide, by decide⟩

end Sys2Proof.Proofs.Numbers
end

section
/-! SUPPORT. A command at the ports (00_scope.md R10): the ends a command can have, said once; the writes it issues and the answers they get
(60_exceptions.md section 3, 70_reset_and_hazards.md section 1), and what a Bus that only answers, or falls silent, makes of it (R209). -/

namespace Sys2Proof.Proofs.Ports

open Sys2Proof Sys2Proof.Machine Sys2Proof.Machine.Laws Sys2Proof.Proofs.Steps

/-! ## The ends of a command -/

/-- The record of a write answered `OK`. -/
def acked (q : BusRequest) : BusRecord := ⟨q, some .ok⟩

/-- The records of writes answered `OK`. -/
def okRecords (done : List Write) : List BusRecord := done.map fun w => acked w.kind.request

@[simp] theorem length_okRecords (done : List Write) : (okRecords done).length = done.length := List.length_map _

theorem reg_mem_of_mem_okRecords {done : List Write} {r : BusRecord} (h : r ∈ okRecords done) :
    r.request.reg ∈ deviceRegisters := by
  obtain ⟨w, -, rfl⟩ := List.mem_map.1 h
  exact w.kind.reg_mem

theorem answer_of_mem_okRecords {done : List Write} {r : BusRecord} (h : r ∈ okRecords done) : r.answer = some .ok := by
  obtain ⟨w, -, rfl⟩ := List.mem_map.1 h
  rfl

/-- A command that began in `s` has had the writes `done` answered `OK`, and nothing else at its ports. -/
structure Progress (s : State) (done : List Write) (u : State) : Prop where
  busLog : u.busLog = s.busLog ++ okRecords done
  responses : u.responses = s.responses
  outstanding : s.outstanding = none → u.outstanding = none

/-- The write `w` of such a command stands without an answer, one of at most three to different registers. -/
structure Stands (s : State) (done : List Write) (w : Write) (v : State) : Prop where
  busLog : v.busLog = s.busLog ++ okRecords done
  responses : v.responses = s.responses
  outstanding : v.outstanding = some w.kind.request
  unknown : v.device.read w.kind.reg.toNat = none
  few : done.length < 3
  distinct : (done ++ [w]).Pairwise fun a b => a.kind.reg ≠ b.kind.reg

/-- How a command that began in `s` ends: answered at once, answered `OK` after its last write, with BUS_ERROR after a failed one, waiting
for a silent Bus, or abandoned to a reset on a write or right after its `OK`. -/
inductive CommandEnd (s : State) : State → Prop where
  | atOnce (st : Status) (r : Operand) (hst : st ≠ .busError) : CommandEnd s (s.deliver (responseWord st 0 r))
  | ok {done : List Write} {u : State} (r : Operand) (hfew : done.length ≤ 3) (h : Progress s done u) :
      CommandEnd s (u.deliver (responseWord .ok done.length r))
  | fail {done : List Write} {w : Write} {v : State} (es : List BusEvent) (h : Stands s done w v) :
      CommandEnd s ((w.kind.fail (v.answered w.kind.request .fail es)).deliver (responseWord .busError done.length 0))
  | silent {done : List Write} {w : Write} {v : State} (h : Stands s done w v) : CommandEnd s { v with busEvents := [] }
  | reset {done : List Write} {w : Write} {v : State} (es : List BusEvent) (h : Stands s done w v) :
      CommandEnd s { v with busEvents := es }.blockReset
  | okThenReset {done : List Write} {w : Write} {v : State} (es : List BusEvent) (h : Stands s done w v) :
      CommandEnd s (v.answered w.kind.request .ok es).blockReset

section Ends

variable {s u v : State} {done ws : List Write} {w : Write}

theorem Progress.neutral (h : Progress s done u) {f : State → State} (hf : Neutral f) : Progress s done (f u) :=
  ⟨(hf.busLog u).trans h.busLog, (hf.responses u).trans h.responses, fun hs => (hf.outstanding u).trans (h.outstanding hs)⟩

theorem progress_start {f : State → State} (hf : Neutral f) : Progress s [] (f s) :=
  ⟨by simp [hf.busLog, okRecords], hf.responses s, fun hs => (hf.outstanding s).trans hs⟩

theorem Progress.stands (h : Progress s done u) (hv : Waiting u w.kind.request v) (hlen : (done ++ w :: ws).length ≤ 3)
    (hreg : (done ++ w :: ws).Pairwise fun a b => a.kind.reg ≠ b.kind.reg) : Stands s done w v := by
  have hfew : done.length < 3 := by
    rw [List.length_append, List.length_cons] at hlen
    omega
  have hdistinct := hreg.sublist ((List.singleton_sublist.2 (List.mem_cons_self (l := ws))).append_left done)
  obtain rfl | ⟨rfl, -⟩ := hv
  · exact ⟨h.busLog, h.responses, rfl, read_forget_same _ _, hfew, hdistinct⟩
  · exact ⟨h.busLog, h.responses, rfl, rfl, hfew, hdistinct⟩

/-- An `OK` adds the write to those done. -/
theorem Stands.ack (h : Stands s done w v) (es : List BusEvent) :
    Progress s (done ++ [w]) (w.andThen (w.kind.ack (v.answered w.kind.request .ok es))) := by
  refine Progress.neutral (f := w.andThen) ⟨?_, ?_, fun _ => ?_⟩ w.neutral
  · rw [show w.kind.ack = Shadows.onAnswer w.kind .ok from rfl, Shadows.onAnswer_busLog, answered_busLog, h.busLog]
    simp [okRecords, acked]
  · rw [show w.kind.ack = Shadows.onAnswer w.kind .ok from rfl, Encoding.onAnswer_responses]
    exact h.responses
  · exact Invariants.onAnswer_outstanding w.kind .ok _

end Ends

/-- Every command ends in one of these ways. -/
theorem exec_cases {i : Instr} {s t : State} (ht : exec i s = .next t) : CommandEnd s t := by
  cases exec_shape i s with
  | answered st r h hst =>
    obtain rfl : s.deliver _ = t := Host.Outcome.next.inj (h.symm.trans ht)
    exact .atOnce st r hst
  | writes pre post ws r hpre hpost _ hlen hreg h =>
    refine runWrites_elim (P := CommandEnd s)
      (Q := fun ws' n u => ∃ done, done ++ ws' = ws ∧ done.length = n ∧ Progress s done u) (fun n u hQ hu => ?_)
      (fun w ws' n u v es hQ hv _ => ?_) (fun w ws' n u v es hQ hv _ => ?_) (fun w ws' n u v hQ hv => ?_)
      (fun w ws' n u v es hQ hv _ _ => ?_) (fun w ws' n u v es hQ hv _ _ => ?_)
      ws 0 (pre s) ⟨[], rfl, rfl, progress_start hpre⟩ (h.symm.trans ht)
    all_goals obtain ⟨done, rfl, rfl, hprog⟩ := hQ
    · rw [List.append_nil] at hu hlen
      obtain rfl : (post u).deliver _ = t := Host.Outcome.next.inj hu
      exact .ok r hlen.2 (hprog.neutral hpost)
    all_goals have hstands := hprog.stands hv hlen.2 hreg
    · exact ⟨done ++ [w], by rw [List.append_assoc, List.singleton_append], by simp, hstands.ack es⟩
    · exact .fail es hstands
    · exact .silent hstands
    · exact .reset es hstands
    · exact .okThenReset es hstands

/-! ## How many writes, and to which registers -/

theorem fail_busLog (k : Kind) (s : State) : (k.fail s).busLog = s.busLog := Shadows.onAnswer_busLog k .fail s

theorem fail_outstanding (k : Kind) (s : State) : (k.fail s).outstanding = s.outstanding :=
  Invariants.onAnswer_outstanding k .fail s

theorem fail_responses (k : Kind) (s : State) : (k.fail s).responses = s.responses := Encoding.onAnswer_responses k .fail s

section Stands

variable {s v : State} {done : List Write} {w : Write}

/-- The log after the write that stands has got its record, answered or not. -/
theorem Stands.log_append (h : Stands s done w v) (a : Option BusAnswer) :
    v.busLog ++ [⟨w.kind.request, a⟩] = s.busLog ++ (okRecords done ++ [⟨w.kind.request, a⟩]) := by
  rw [h.busLog, List.append_assoc]

theorem Stands.reg_mem (a : Option BusAnswer) :
    ∀ r ∈ okRecords done ++ [⟨w.kind.request, a⟩], r.request.reg ∈ deviceRegisters := by
  intro r hr
  obtain hr | hr := List.mem_append.1 hr
  · exact reg_mem_of_mem_okRecords hr
  · exact List.mem_singleton.1 hr ▸ w.kind.reg_mem

theorem Stands.blockReset_busLog (h : Stands s done w v) (es : List BusEvent) :
    State.busLog (State.blockReset { v with busEvents := es }) = v.busLog ++ [⟨w.kind.request, none⟩] := by
  simp [h.outstanding]

end Stands

/-- Settles O23: in every end of a command its log holds the writes done and at most the one that stood after them. -/
theorem writesAreFewAndListed : Obligations.WritesAreFewAndListed := by
  intro i s t hout ht
  cases exec_cases ht with
  | atOnce st r => exact ⟨[], by simp, by simp [hout], by simp, by simp [hout]⟩
  | ok r hfew h =>
    have hnone := h.outstanding hout
    exact ⟨_, h.busLog, by simpa [hnone] using hfew, fun _ => reg_mem_of_mem_okRecords, by simp [hnone]⟩
  | @silent done w v h =>
    refine ⟨_, h.busLog, by simpa [h.outstanding] using h.few, fun _ => reg_mem_of_mem_okRecords, fun q hq => ?_⟩
    obtain rfl := Option.some.inj (h.outstanding.symm.trans hq)
    exact w.kind.reg_mem
  | fail es h =>
    exact ⟨_, (fail_busLog _ _).trans (h.log_append (some .fail)), by simpa [fail_outstanding] using h.few, Stands.reg_mem _,
      by simp [fail_outstanding]⟩
  | reset es h =>
    exact ⟨_, (h.blockReset_busLog es).trans (h.log_append none), by simpa using h.few, Stands.reg_mem _, by simp⟩
  | okThenReset es h =>
    exact ⟨_, (List.append_nil _).trans (h.log_append (some .ok)), by simpa using h.few, Stands.reg_mem _, by simp⟩

/-! ## A reset while BUSY -/

/-- What R233 says of the state `t` a reset leaves of a command that began in `s`. -/
def Abandoned (s t : State) : Prop :=
  t.timers = (State.resetWith s.conflictCheck).timers ∧ t.channels = (State.resetWith s.conflictCheck).channels ∧
  t.phase = .idle ∧ t.conflictCheck = s.conflictCheck ∧
  ∃ (log : List BusRecord) (q : BusRequest) (a : Option BusAnswer), t.busLog = s.busLog ++ log ++ [⟨q, a⟩] ∧ (∀ r ∈ log, r.answer = some .ok) ∧
    (a = none ∧ t.device.read q.reg.toNat = none ∨ a = some .ok ∧ t.device.read q.reg.toNat = some q.value)

/-- A command that ends with neither a response nor a write outstanding was abandoned to a reset. -/
theorem exec_abandoned {i : Instr} {s t : State} (ht : exec i s = .next t) (hout : t.outstanding = none)
    (hresp : t.responses = s.responses) : Abandoned s t := by
  have hcheck := (exec_kept ht).conflictCheck
  cases exec_cases ht with
  | atOnce st r => simp at hresp
  | ok r _ h => simp [h.responses] at hresp
  | fail es h => simp [fail_responses, h.responses] at hresp
  | silent h => exact absurd (h.outstanding.symm.trans hout) (by simp)
  | @reset done w v es h =>
    exact ⟨rfl, rfl, rfl, hcheck, _, w.kind.request, none, (h.blockReset_busLog es).trans (by rw [h.busLog]),
      fun _ => answer_of_mem_okRecords, .inl ⟨rfl, h.unknown⟩⟩
  | @okThenReset done w v es h =>
    refine ⟨rfl, rfl, rfl, hcheck, _, w.kind.request, some .ok, (List.append_nil _).trans (by rw [answered_busLog, h.busLog]),
      fun _ => answer_of_mem_okRecords, .inr ⟨rfl, ?_⟩⟩
    rw [blockReset_device, answered_ok_device, receive_wireBytes, read_write_same]

theorem busWrite_okThenReset (reg : RegAddr) (v : RegValue) {s : State} {es : List BusEvent} (h : s.busEvents = .okThenReset :: es) :
    busWrite reg v s = .noAnswer ((s.issue ⟨reg, v⟩).answered ⟨reg, v⟩ .ok es).blockReset := by
  rw [busWrite, h]
  rfl

/-- A SET_PW whose one write gets no answer ends with that write. -/
theorem exec_setPw_noAnswer {c : Channel} {opd : Operand} {s t : State}
    (h : busWrite (pwReg c) (BitVec.ofNat 16 (clamp (sintOperand opd) 0 Config.regMax).toNat) s = .noAnswer t) :
    exec (.setPw c opd) s = .next t := by
  simp only [exec, execSetPw, writePw, shadowedWrite, h]

theorem exec_setPw_reset {c : Channel} {opd : Operand} {s : State} {es : List BusEvent}
    (hes : s.busEvents = .reset :: es ∨ s.busEvents = .okThenReset :: es) :
    ∃ t, exec (.setPw c opd) s = .next t ∧ t.outstanding = none ∧ t.responses = s.responses ∧ t.busEvents = es := by
  obtain hes | hes := hes
  · exact ⟨_, exec_setPw_noAnswer (busWrite_reset _ _ hes), rfl, rfl, rfl⟩
  · exact ⟨_, exec_setPw_noAnswer (busWrite_okThenReset _ _ hes), rfl, rfl, rfl⟩

theorem step_commandThenReset {s : State} {w : CommandWord} {rest : List HostEvent} (hphase : s.phase = .idle)
    (hinbox : s.inbox = .commandThenReset w :: rest) :
    ∃ u, runCommand w (took s rest) = .next u ∧ step s = .next (u.abandon s.responses) := by
  obtain ⟨u, hu⟩ := runCommand_next w (took s rest)
  exact ⟨u, hu, (step_cons hphase hinbox).trans (takeEvent_commandThenReset hu)⟩

/-- Settles O15: of a command's ends only a reset leaves neither a response nor a write outstanding; the two resets on a write of SET_PW;
and the reset before a response. -/
theorem resetWhileBusyAbandons : Obligations.ResetWhileBusyAbandons := by
  refine ⟨fun i s t _ ht hout hresp => exec_abandoned ht hout hresp, fun c opd s es hes => exec_setPw_reset hes,
    fun s w rest hphase _ hinbox => ?_⟩
  obtain ⟨u, hu, hstep⟩ := step_commandThenReset hphase hinbox
  have hkept := runCommand_kept hu
  exact ⟨_, hstep, rfl, rfl, rfl, rfl, rfl, hkept.inbox, hkept.conflictCheck⟩

/-! ## Getters -/

/-- Settles O53: a getter has no write planned, so its response, which counts none, is all that comes of it. -/
theorem gettersLeaveEverything : Obligations.GettersLeaveEverything := by
  intro c s t i hi ht
  have hplan : plannedWrites s i = [] := by
    obtain rfl | rfl | rfl | rfl | rfl | rfl | rfl := hi <;> rfl
  obtain ⟨st, r, rfl⟩ := deliver_of_plannedWrites_nil hplan ht
  obtain ⟨-, -, hwrites, -⟩ := response_fields st 0 r (Nat.zero_le 3)
  exact ⟨_, rfl, BitVec.eq_of_toNat_eq hwrites⟩

/-! ## A failed write -/

theorem Stands.pairwise {s v : State} {done : List Write} {w : Write} (h : Stands s done w v) (a : Option BusAnswer) :
    List.Pairwise (fun x y : BusRecord => x.request.reg ≠ y.request.reg) (okRecords done ++ [⟨w.kind.request, a⟩]) := by
  simpa [okRecords, List.pairwise_append, List.pairwise_map, acked, Kind.request] using h.distinct

/-- Where each register is written once, what is known of it is what its one record says. -/
theorem readAfter_of_mem (m : Memory) {log : List BusRecord} (hlog : log.Pairwise fun x y => x.request.reg ≠ y.request.reg)
    {b : BusRecord} (hb : b ∈ log) :
    readAfter m log b.request.reg.toNat = if b.answer = some .ok then some b.request.value else none := by
  induction log using List.reverseRecOn with
  | nil => cases hb
  | append_singleton log r ih =>
    obtain ⟨hlog, -, hr⟩ := List.pairwise_append.1 hlog
    rw [Device.readAfter_append_singleton]
    obtain hb | hb := List.mem_append.1 hb
    · have hne : r.request.reg.toNat ≠ b.request.reg.toNat :=
        fun h => hr b hb r List.mem_cons_self (BitVec.eq_of_toNat_eq h.symm)
      rw [if_neg hne, ih hlog hb]
    · rw [List.mem_singleton.1 hb, if_pos rfl]

theorem eq_busError_of_code {st : Status} (h : st.code = 3) : st = .busError := by
  cases st with
  | busError => rfl
  | ok | rangeError | conflictError | illegal | unset => exact absurd h (by decide)

/-- A command that answers BUS_ERROR ended with a failed write after those done. -/
theorem exec_busError {i : Instr} {s t : State} {r : ResponseWord} (ht : exec i s = .next t) (hresp : t.responses = s.responses ++ [r])
    (hstatus : responseStatus r = 3) : ∃ done w v es, Stands s done w v ∧ r = responseWord .busError done.length 0 ∧
      t = (w.kind.fail (v.answered w.kind.request .fail es)).deliver r := by
  cases exec_cases ht with
  | atOnce st res hst =>
    obtain rfl : responseWord st 0 res = r := by simpa using hresp
    rw [Exceptions.responseStatus_responseWord] at hstatus
    exact absurd (eq_busError_of_code hstatus) hst
  | ok res _ h =>
    obtain rfl : responseWord .ok _ res = r := by simpa [h.responses] using hresp
    rw [Exceptions.responseStatus_responseWord] at hstatus
    exact absurd hstatus (by decide)
  | @fail done w v es h =>
    obtain rfl : responseWord .busError done.length 0 = r := by simpa [fail_responses, h.responses] using hresp
    exact ⟨done, w, v, es, h, rfl, rfl⟩
  | silent h => simp [h.responses] at hresp
  | reset es h => simp [h.responses] at hresp
  | okThenReset es h => simp [h.responses] at hresp

/-! ### The claim after a failed timer write -/

/-- The bus log has not grown since `s`, or its last record is an `OK`. -/
def LastOk (s u : State) : Prop := u.busLog = s.busLog ∨ ∃ l q, u.busLog = l ++ [acked q]

/-- If the last record since `s` is the failure of a timer write, `c` claims nothing. -/
def ClaimGone (s : State) (c : Channel) (t : State) : Prop :=
  ∀ (l : List BusRecord) (q : BusRequest), t.busLog = l ++ [⟨q, some .fail⟩] → t.busLog ≠ s.busLog → (∃ j, q.reg = pscReg j ∨ q.reg = arrReg j) →
    (t.channel c).req = .unclaimed

section ClaimGone

variable {s t u : State} {c : Channel}

theorem LastOk.claimGone (h : LastOk s u) (hlog : t.busLog = u.busLog) : ClaimGone s c t := by
  intro l q hq hne
  rw [hlog] at hq hne
  obtain h | ⟨l', q', h⟩ := h
  · exact absurd h hne
  · have hlast := List.append_inj_right' (h.symm.trans hq) rfl
    simp [acked] at hlast

theorem claimGone_blockReset (s u : State) (c : Channel) : ClaimGone s c u.blockReset :=
  fun _ _ _ _ _ => by rw [channel_blockReset]; rfl

theorem respond_claimGone {st : Status} {n : Nat} {r : Operand} (h : LastOk s u) (ht : respond st n r u = .next t) :
    ClaimGone s c t := by
  obtain rfl : u.deliver _ = t := Host.Outcome.next.inj ht
  exact h.claimGone rfl

/-- A shadowed write leaves no claim where it is to a timer register and fails, if `c` claims nothing by then. -/
theorem shadowedWrite_claimGone {reg : RegAddr} {x n : Nat} {ack fail : State → State} {k : State → Result}
    (ht : shadowedWrite reg x n ack fail u k = .next t) (h : LastOk s u) (hfail : ∀ v, (fail v).busLog = v.busLog)
    (hreq : (∃ j, reg = pscReg j ∨ reg = arrReg j) → ∀ v, (∀ c, v.channel c = u.channel c) → ((fail v).channel c).req = .unclaimed)
    (hk : ∀ v, (∀ c, v.channel c = u.channel c) → LastOk s v → k (ack v) = .next t → ClaimGone s c t) : ClaimGone s c t := by
  refine shadowedWrite_elim _ _ _ _ _ _ ht (fun v es hv _ hnext => ?_) (fun v es hv _ hnext => ?_) (fun v hv => ?_)
    (fun _ _ _ _ _ => claimGone_blockReset _ _ _) (fun _ _ _ _ _ => claimGone_blockReset _ _ _)
  all_goals
    have hchannel : ∀ c, v.channel c = u.channel c := by obtain rfl | ⟨rfl, -⟩ := hv <;> exact fun _ => rfl
    have hlog : v.busLog = u.busLog := by obtain rfl | ⟨rfl, -⟩ := hv <;> rfl
  · exact hk (v.answered _ .ok es) hchannel (.inr ⟨_, _, rfl⟩) hnext
  · obtain rfl : State.deliver _ _ = t := Host.Outcome.next.inj hnext
    intro l q hq _ htimer
    rw [deliver_busLog, hfail, answered_busLog] at hq
    obtain ⟨rfl⟩ : (⟨reg, BitVec.ofNat 16 x⟩ : BusRequest) = q := by simpa using List.append_inj_right' hq rfl
    exact hreq htimer (v.answered _ .fail es) hchannel
  · exact h.claimGone hlog

theorem writePw_claimGone {c' : Channel} {x n : Nat} {k : State → Result} (ht : writePw c' x n u k = .next t) (h : LastOk s u)
    (hk : ∀ v, LastOk s v → k v = .next t → ClaimGone s c t) : ClaimGone s c t :=
  shadowedWrite_claimGone ht h (fun _ => rfl)
    (fun ⟨_, hj⟩ => absurd hj (not_or.2 ⟨pwReg_ne_pscReg _ _, pwReg_ne_arrReg _ _⟩)) fun v _ hv => hk (v.modChannel c' _) hv

theorem writePsc_claimGone {j : TimerIndex} {p n : Nat} {k : State → Result} (ht : writePsc j p n u k = .next t) (h : LastOk s u)
    (hreq : (u.channel c).req = .unclaimed)
    (hk : ∀ v, LastOk s v → (v.channel c).req = .unclaimed → k v = .next t → ClaimGone s c t) : ClaimGone s c t :=
  shadowedWrite_claimGone ht h (fun _ => rfl) (fun _ v hv => by rw [channel_modTimer, hv, hreq])
    fun v hv hok => hk (v.modTimer j _) hok (by rw [channel_modTimer, hv, hreq])

theorem writeArr_claimGone {j : TimerIndex} {T n : Nat} {k : State → Result} (ht : writeArr j T n u k = .next t) (h : LastOk s u)
    (hreq : (u.channel c).req = .unclaimed) (hk : ∀ v, LastOk s v → k v = .next t → ClaimGone s c t) : ClaimGone s c t :=
  shadowedWrite_claimGone ht h (fun _ => rfl) (fun _ v hv => by rw [channel_modTimer, hv, hreq])
    fun v _ hok => hk (v.modTimer j _) hok

theorem setReq_unclaimed (s : State) (c : Channel) : ((s.setReq c .unclaimed).channel c).req = .unclaimed := by
  rw [setReq_eq, channel_modChannel_same]

theorem programTimer_claimGone {p T : Nat} {new : Claim} {k : State → Result} (ht : programTimer c p T new s k = .next t)
    (hk : ∀ v, LastOk s v → k v = .next t → ClaimGone s c t) : ClaimGone s c t :=
  writePsc_claimGone ht (.inl rfl) (setReq_unclaimed s c) fun _ hu hreq hnext =>
    writeArr_claimGone hnext hu hreq fun v hv => hk (v.setReq c new) hv

theorem rederivePw_claimGone {c' : Channel} {k : Nat → State → Result} (ht : rederivePw c' u k = .next t) (h : LastOk s u)
    (hk : ∀ n v, LastOk s v → k n v = .next t → ClaimGone s c t) : ClaimGone s c t := by
  rw [rederivePw] at ht
  split at ht
  · exact hk 2 u h ht
  · exact writePw_claimGone ht h (hk 3)

/-- Every command withdraws its channel's claim before it writes a timer register, and sets it only after both writes (R104). -/
theorem exec_claimGone {i : Instr} (ht : exec i s = .next t) : ClaimGone s i.channel t := by
  have hstart : LastOk s s := .inl rfl
  cases i with
  | setFreq c F =>
    simp only [exec, execSetFreq] at ht
    split at ht
    · exact respond_claimGone hstart ht
    split at ht
    · exact respond_claimGone hstart ht
    split at ht
    · exact respond_claimGone hstart ht
    · exact programTimer_claimGone ht fun _ hu hnext => rederivePw_claimGone hnext hu fun _ _ hv => respond_claimGone hv
  | setPeriod c n =>
    simp only [exec, execSetPeriod] at ht
    split at ht
    · exact respond_claimGone hstart ht
    split at ht
    · exact respond_claimGone hstart ht
    · exact writeArr_claimGone ht (.inl rfl) (setReq_unclaimed s c) fun _ hv => respond_claimGone hv
  | setPrescaler c n =>
    simp only [exec, execSetPrescaler] at ht
    split at ht
    · exact respond_claimGone hstart ht
    split at ht
    · exact respond_claimGone hstart ht
    · exact writePsc_claimGone ht (.inl rfl) (setReq_unclaimed s c) fun _ hv _ => respond_claimGone hv
  | servoInit c =>
    simp only [exec, execServoInit] at ht
    split at ht
    · exact respond_claimGone hstart ht
    · exact programTimer_claimGone ht fun v hv => respond_claimGone (u := v.setPct c none) hv
  | setPw c x =>
    rw [exec, execSetPw] at ht
    exact writePw_claimGone ht hstart fun v hv => respond_claimGone (u := v.setPct c none) hv
  | setPwPct c P =>
    simp only [exec, execSetPwPct] at ht
    split at ht
    · exact respond_claimGone hstart ht
    · exact writePw_claimGone ht hstart fun v hv => respond_claimGone (u := v.setPct c (some P)) hv
  | servoAngle c A =>
    rw [exec, execServoAngle] at ht
    exact writePw_claimGone ht hstart fun v hv => respond_claimGone (u := (v.setAngle c _).setPct c none) hv
  | getFreq | getPeriod | getPrescaler | getPw | getPwPct | getAngle | getSync =>
    obtain ⟨st, r, rfl⟩ := deliver_of_plannedWrites_nil rfl ht
    exact hstart.claimGone rfl

end ClaimGone

/-- Settles O26: the end of a command with a failed write, what its log leaves known of registers written once each, and the claim
withdrawn before the timer is written. -/
theorem busErrorStopsCommand : Obligations.BusErrorStopsCommand := by
  intro i s t r hno ht hresp hstatus
  obtain ⟨done, w, v, es, h, hr, hend⟩ := exec_busError ht hresp hstatus
  have hlog : t.busLog = s.busLog ++ (okRecords done ++ [⟨w.kind.request, some .fail⟩]) := by
    rw [hend, deliver_busLog, fail_busLog, answered_busLog, h.log_append]
  have hout : t.outstanding = none := by rw [hend, deliver_outstanding, fail_outstanding, answered_outstanding]
  obtain ⟨log, hlog', hread⟩ := Device.exec_knownByLog hno ht hout
  obtain rfl := List.append_cancel_left (hlog'.symm.trans hlog)
  have hknown {b : BusRecord} (hb : b ∈ okRecords done ++ [⟨w.kind.request, some .fail⟩]) :=
    (hread b.request.reg.toNat).trans (readAfter_of_mem s.device (h.pairwise (some .fail)) hb)
  obtain ⟨-, -, hwrites, hresult⟩ := response_fields .busError done.length 0 h.few.le
  rw [← List.append_assoc] at hlog
  refine ⟨_, w.kind.request, hlog, fun _ => answer_of_mem_okRecords, ?_, hr ▸ hresult, fun b hb => ?_, ?_, fun htimer => ?_⟩
  · rw [hr, hwrites, length_okRecords]
  · rw [hknown (List.mem_append_left _ hb), if_pos (answer_of_mem_okRecords hb)]
  · exact hknown (b := ⟨w.kind.request, some .fail⟩) (List.mem_append_right _ List.mem_cons_self)
  · exact exec_claimGone ht _ _ hlog (by rw [hlog, List.append_assoc]; simp) htimer

end Sys2Proof.Proofs.Ports
end

section
/-! SUPPORT. A command on a Bus that does nothing but answer, or falls silent (60_exceptions.md R209, 70_reset_and_hazards.md section 4): each
answer is used by one write, in order, and the first write without an answer is the one PFR waits for. -/

namespace Sys2Proof.Proofs.AnsweringBus

open Sys2Proof Sys2Proof.Machine Sys2Proof.Machine.Laws Sys2Proof.Proofs.Steps Sys2Proof.Proofs.Ports

/-! ## How a list of planned writes ends -/

/-- PFR has answered the command that began in `u`. -/
def IsAnswered (u t : State) : Prop := t.phase = .idle ∧ t.outstanding = none ∧ ∃ r, t.responses = u.responses ++ [r]

/-- PFR waits for a silent Bus to answer `q`, in the phase of the command that began in `u`, which has no response. -/
structure IsStuck (u t : State) (q : BusRequest) : Prop where
  phase : t.phase = u.phase
  outstanding : t.outstanding = some q
  busEvents : t.busEvents = []
  responses : t.responses = u.responses

/-- A command that began in `u` with the writes `plan`, on a Bus that only answers, ends in `t` with the records `log`: each answer was
used by one write, and the command is answered or waits for the first write without an answer. After `k` times `OK` and then silence
that is the write of index `k`. -/
structure PlanOutcome (plan : List BusRequest) (u t : State) (log : List BusRecord) : Prop where
  busLog : t.busLog = u.busLog ++ log
  answered : ∀ r ∈ log, r.answer.isSome
  used : u.busEvents.length = log.length + t.busEvents.length
  ended : IsAnswered u t ∨ log.length < plan.length ∧ ∃ q, IsStuck u t q
  silent : ∀ (k : Nat) (q : BusRequest), u.busEvents = List.replicate k .ok → plan[k]? = some q →
    IsStuck u t q ∧ log = (plan.take k).map acked

/-- `v` is `u` at the ports once its first write has been answered, `es` being what the Bus still has to say. -/
structure AfterAnswer (u : State) (q : BusRequest) (a : BusAnswer) (es : List BusEvent) (v : State) : Prop where
  busEvents : v.busEvents = es
  busLog : v.busLog = u.busLog ++ [⟨q, some a⟩]
  responses : v.responses = u.responses
  phase : v.phase = u.phase
  outstanding : v.outstanding = none

theorem afterAnswer_onAnswer (u : State) (k : Kind) (a : BusAnswer) (es : List BusEvent) :
    AfterAnswer u k.request a es (Shadows.onAnswer k a ((u.issue k.request).answered k.request a es)) where
  busEvents := Shadows.onAnswer_busEvents k a _
  busLog := Shadows.onAnswer_busLog k a _
  responses := Encoding.onAnswer_responses k a _
  phase := Invariants.onAnswer_phase k a _
  outstanding := Invariants.onAnswer_outstanding k a _

theorem AfterAnswer.neutral {u v : State} {q : BusRequest} {a : BusAnswer} {es : List BusEvent} (h : AfterAnswer u q a es v)
    {f : State → State} (hf : Neutral f) : AfterAnswer u q a es (f v) :=
  ⟨(hf.busEvents v).trans h.busEvents, (hf.busLog v).trans h.busLog, (hf.responses v).trans h.responses,
    (hf.phase v).trans h.phase, (hf.outstanding v).trans h.outstanding⟩

section PlanOutcome

variable {u v t : State} {q : BusRequest} {plan : List BusRequest} {log : List BusRecord} {es : List BusEvent}

theorem IsStuck.congr (h : IsStuck v t q) (hphase : v.phase = u.phase) (hresp : v.responses = u.responses) : IsStuck u t q :=
  { h with
    phase := h.phase.trans hphase
    responses := h.responses.trans hresp }

/-- No write left: the response comes, whatever the Bus might still say. -/
theorem planOutcome_nil (hlog : t.busLog = u.busLog) (hes : t.busEvents = u.busEvents) (h : IsAnswered u t) : PlanOutcome [] u t [] where
  busLog := by rw [hlog, List.append_nil]
  answered := by simp
  used := by rw [hes, List.length_nil, Nat.zero_add]
  ended := .inl h
  silent := by simp

/-- A silent Bus leaves PFR with the first write. -/
theorem planOutcome_silent (hes : u.busEvents = []) (hlog : t.busLog = u.busLog) (h : IsStuck u t q) : PlanOutcome (q :: plan) u t [] where
  busLog := by rw [hlog, List.append_nil]
  answered := by simp
  used := by rw [hes, h.busEvents]; rfl
  ended := .inr ⟨Nat.zero_lt_succ _, q, h⟩
  silent k q' hk hq := by
    obtain rfl : k = 0 := by simpa [hes] using congrArg List.length hk.symm
    obtain rfl : q = q' := by simpa using hq
    exact ⟨h, rfl⟩

/-- A `FAIL` ends the command at its first write. -/
theorem planOutcome_fail (hes : u.busEvents = .fail :: es) (hes' : t.busEvents = es) (hlog : t.busLog = u.busLog ++ [⟨q, some .fail⟩])
    (h : IsAnswered u t) : PlanOutcome (q :: plan) u t [⟨q, some .fail⟩] where
  busLog := hlog
  answered := by simp
  used := by rw [hes, hes', List.length_cons, List.length_singleton, Nat.add_comm]
  ended := .inl h
  silent k q' hk _ := by
    have hmem : BusEvent.fail ∈ List.replicate k BusEvent.ok := hk ▸ hes ▸ List.mem_cons_self
    cases List.eq_of_mem_replicate hmem

/-- After an `OK` to the first write, the rest of the writes decides. -/
theorem PlanOutcome.cons (h : PlanOutcome plan v t log) (hes : u.busEvents = .ok :: es) (hv : AfterAnswer u q .ok es v) :
    PlanOutcome (q :: plan) u t (acked q :: log) where
  busLog := by rw [h.busLog, hv.busLog, List.append_assoc, List.singleton_append, acked]
  answered := by simpa [acked] using h.answered
  used := by rw [hes, List.length_cons, List.length_cons, ← hv.busEvents, h.used, Nat.add_right_comm]
  ended := by
    obtain ⟨hphase, hout, r, hr⟩ | ⟨hlen, q', hstuck⟩ := h.ended
    · exact .inl ⟨hphase, hout, r, hv.responses ▸ hr⟩
    · exact .inr ⟨Nat.succ_lt_succ hlen, q', hstuck.congr hv.phase hv.responses⟩
  silent k q' hk hq := by
    cases k with
    | zero => simp [hes] at hk
    | succ k =>
      rw [hes, List.replicate_succ] at hk
      obtain ⟨hstuck, rfl⟩ := h.silent k q' (hv.busEvents.trans (List.cons.inj hk).2) hq
      exact ⟨hstuck.congr hv.phase hv.responses, rfl⟩

end PlanOutcome

theorem onlyAnswers_tail {e : BusEvent} {es : List BusEvent} (h : OnlyAnswers (e :: es)) : (e = .ok ∨ e = .fail) ∧ OnlyAnswers es := by
  obtain ⟨⟨hreset, hokReset⟩, hdevice⟩ := h
  simp only [List.mem_cons, not_or] at hreset hokReset hdevice
  refine ⟨?_, ⟨hreset.2, hokReset.2⟩, hdevice.2⟩
  cases e with
  | ok => exact .inl rfl
  | fail => exact .inr rfl
  | reset => exact absurd rfl hreset.1
  | okThenReset => exact absurd rfl hokReset.1
  | deviceReset => exact absurd rfl hdevice.1

/-- A list of writes on a Bus that only answers: each answer decides what becomes of the first write left. -/
theorem runWrites_outcome {post : State → State} (hpost : Neutral post) (r : ResponseWord) (ws : List Write) (n : Nat) (u : State)
    (hout : u.outstanding = none) (hes : OnlyAnswers u.busEvents) :
    ∃ t log, runWrites ws n u (fun v => .next ((post v).deliver r)) = .next t ∧ PlanOutcome (ws.map (·.kind.request)) u t log := by
  induction ws generalizing n u with
  | nil =>
    exact ⟨_, _, rfl, planOutcome_nil (hpost.busLog u) (hpost.busEvents u)
      ⟨rfl, (hpost.outstanding u).trans hout, r, by rw [deliver_responses, hpost.responses]⟩⟩
  | cons w ws ih =>
    cases hev : u.busEvents with
    | nil =>
      exact ⟨_, _, shadowedWrite_silent _ _ _ _ _ _ hev, planOutcome_silent (q := w.kind.request) hev rfl ⟨rfl, rfl, hev, rfl⟩⟩
    | cons e es =>
      obtain ⟨rfl | rfl, hes⟩ := onlyAnswers_tail (hev ▸ hes)
      · have hafter := (afterAnswer_onAnswer u w.kind .ok es).neutral w.neutral
        obtain ⟨t, log, ht, hlog⟩ := ih (n + 1) _ hafter.outstanding (by rwa [hafter.busEvents])
        exact ⟨t, _, (shadowedWrite_ok _ _ _ _ _ _ hev).trans ht, hlog.cons hev hafter⟩
      · have hafter := afterAnswer_onAnswer u w.kind .fail es
        exact ⟨_, _, shadowedWrite_fail _ _ _ _ _ _ hev, planOutcome_fail (q := w.kind.request) hev hafter.busEvents hafter.busLog
          ⟨rfl, hafter.outstanding, _, by rw [deliver_responses]; exact congrArg (· ++ _) hafter.responses⟩⟩

/-- What precedes the first write changes nothing at the ports. -/
theorem PlanOutcome.of_neutral {plan : List BusRequest} {s t : State} {log : List BusRecord} {pre : State → State}
    (h : PlanOutcome plan (pre s) t log) (hpre : Neutral pre) : PlanOutcome plan s t log where
  busLog := hpre.busLog s ▸ h.busLog
  answered := h.answered
  used := hpre.busEvents s ▸ h.used
  ended := h.ended.imp (fun ⟨hphase, hout, r, hr⟩ => ⟨hphase, hout, r, hpre.responses s ▸ hr⟩)
    fun ⟨hlen, q, hq⟩ => ⟨hlen, q, hq.congr (hpre.phase s) (hpre.responses s)⟩
  silent k q hk hq :=
    (h.silent k q ((hpre.busEvents s).trans hk) hq).imp_left fun hq => hq.congr (hpre.phase s) (hpre.responses s)

/-- A command that finds no write outstanding, on a Bus that only answers. -/
theorem exec_outcome (i : Instr) {s : State} (hout : s.outstanding = none) (hes : OnlyAnswers s.busEvents) :
    ∃ t log, exec i s = .next t ∧ PlanOutcome (plannedWrites s i) s t log ∧ (plannedWrites s i).length ≤ 3 := by
  cases exec_shape i s with
  | answered st r h _ _ hplan =>
    rw [hplan]
    exact ⟨_, _, h, planOutcome_nil rfl rfl ⟨rfl, hout, _, rfl⟩, Nat.zero_le 3⟩
  | writes pre post ws r hpre hpost hplan hlen _ h =>
    obtain ⟨t, log, ht, hlog⟩ := runWrites_outcome hpost (responseWord .ok ws.length r) ws 0 (pre s)
      ((hpre.outstanding s).trans hout) (by rwa [hpre.busEvents])
    rw [← hplan, List.length_map]
    exact ⟨t, log, h.trans ht, hlog.of_neutral hpre, hlen.2⟩

/-! ## The obligations -/

/-- The writes a command would issue do not depend on the ports. -/
theorem plannedWrites_accepted (s : State) (rest : List HostEvent) (i : Instr) :
    plannedWrites { s with inbox := rest, phase := .busy } i = plannedWrites s i := by cases i <;> rfl

/-- Settles O11: the outcome of the offered word's command, and no step from the BUSY state it may leave. -/
theorem silentBusLeavesPfrBusy : Obligations.SilentBusLeavesPfrBusy := by
  intro s w rest i hphase hout hinbox hw hes
  obtain ⟨t, log, ht, h, -⟩ := exec_outcome i (s := { s with inbox := rest, phase := .busy }) hout hes
  rw [plannedWrites_accepted] at h
  refine ⟨t, log, (step_command hphase hinbox hw).trans ht, h.busLog, h.answered, h.used, ?_, fun k q hk hq => ?_⟩
  · obtain hend | ⟨-, q, hq⟩ := h.ended
    · exact .inl hend
    · exact .inr ⟨hq.phase, by rw [hq.outstanding]; rfl, hq.busEvents, hq.responses, step_busy hq.phase⟩
  · obtain ⟨hstuck, hlog⟩ := h.silent k q hk hq
    exact ⟨hstuck.phase, hstuck.outstanding, hstuck.responses, step_busy hstuck.phase, hlog⟩

/-- Settles O12: a command that waits has used up every answer on fewer writes than it has planned, and it has planned at most three. -/
theorem answeringBusGivesOneResponse : Obligations.AnsweringBusGivesOneResponse := by
  intro i s hes hthree hout
  obtain ⟨t, log, ht, h, hfew⟩ := exec_outcome i hout hes
  obtain ⟨hphase, hnone, r, hr⟩ | ⟨hlen, q, hq⟩ := h.ended
  · exact ⟨t, r, ht, hphase, hnone, hr⟩
  · have hused := h.used
    rw [hq.busEvents, List.length_nil] at hused
    omega

/-! ## The answer bit -/

theorem bit_cases : ∀ b : BitVec 1, b = 1 ∨ b = 0 := by decide

/-- Settles O59: bits and answers correspond, and each bit is the answer to the one write of a SET_PW, whose response counts it if it is
`OK`. -/
theorem busAckBit : Obligations.BusAckBit := by
  refine ⟨⟨rfl, rfl, ofAck_ack, ack_ofAck⟩, fun s c v b es hes => ?_⟩
  obtain ⟨w, hw⟩ : ∃ w : Nat, (v.toInt < 0 ∧ w = 0) ∨ (65535 < v.toInt ∧ w = 65535) ∨ (w : Int) = v.toInt ∧ w ≤ 65535 :=
    ⟨(max 0 (min v.toInt 65535)).toNat, by omega⟩
  obtain ⟨hok, hfail⟩ := PulseWidth.setPwWritesClampedWidth s c v w es hw
  obtain rfl | rfl := bit_cases b
  · obtain ⟨t, ht, hend, -⟩ := hok hes
    obtain ⟨hstatus, -, hwrites, -⟩ := response_fields .ok 1 (BitVec.ofNat 48 w) (by decide)
    exact ⟨t, _, _, ht, hend.busLog, hend.busEvents, hend.responses, hwrites, hstatus⟩
  · obtain ⟨t, ht, hend, -⟩ := hfail hes
    obtain ⟨hstatus, -, hwrites, -⟩ := response_fields .busError 0 0 (by decide)
    exact ⟨t, _, _, ht, hend.busLog, hend.busEvents, hend.responses, hwrites, hstatus⟩

end Sys2Proof.Proofs.AnsweringBus
end

section
/-! SUPPORT. Frames: what a command on one channel leaves unchanged, however its writes are answered and also where the Bus falls silent. The
commands differ in the registers they write and in what they keep of their own timer and channel. -/

namespace Sys2Proof.Proofs.Frames

open Sys2Proof Sys2Proof.Machine Sys2Proof.Machine.Laws Sys2Proof.Proofs.AnsweringBus

/-! ## What a command may have changed -/

/-- Between `s` and `t` only timer and channel of `c` and the device registers `regs` may have changed; its timer has kept what `T` says
and the channel what `C` says. -/
structure Framed (s : State) (c : Channel) (regs : List RegAddr) (T : TimerRegs → Prop) (C : ChannelRegs → Prop) (t : State) :
    Prop where
  same : SameExcept s t (timerOf c) c
  timer : T (t.timer (timerOf c))
  channel : C (t.channel c)
  device : ∀ a, (∀ r ∈ regs, a ≠ r.toNat) → t.device.read a = s.device.read a
  conflictCheck : t.conflictCheck = s.conflictCheck
  inbox : t.inbox = s.inbox

section Framed

variable {s t u : State} {c : Channel} {regs : List RegAddr} {T : TimerRegs → Prop} {C : ChannelRegs → Prop}

theorem framed_start (hT : T (s.timer (timerOf c))) (hC : C (s.channel c)) : Framed s c regs T C s :=
  ⟨⟨fun _ _ => rfl, fun _ _ => rfl⟩, hT, hC, fun _ _ => rfl, rfl, rfl⟩

theorem Framed.modTimer (h : Framed s c regs T C u) {f : TimerRegs → TimerRegs} (hf : ∀ r, T r → T (f r)) :
    Framed s c regs T C (u.modTimer (timerOf c) f) :=
  { h with
    same := ⟨fun i hi => (timer_modTimer_ne u f hi).trans (h.same.1 i hi), h.same.2⟩
    timer := by rw [timer_modTimer_same]; exact hf _ h.timer }

theorem Framed.modChannel (h : Framed s c regs T C u) {f : ChannelRegs → ChannelRegs} (hf : ∀ r, C r → C (f r)) :
    Framed s c regs T C (u.modChannel c f) :=
  { h with
    same := ⟨h.same.1, fun c' hc' => (channel_modChannel_ne u f hc').trans (h.same.2 c' hc')⟩
    channel := by rw [channel_modChannel_same]; exact hf _ h.channel }

theorem Framed.setReq (h : Framed s c regs T C u) (x : Claim) (hC : ∀ r, C r → C { r with req := x }) :
    Framed s c regs T C (u.setReq c x) := h.modChannel hC

theorem Framed.setPct (h : Framed s c regs T C u) (x : Option Operand) (hC : ∀ r, C r → C { r with pct := x }) :
    Framed s c regs T C (u.setPct c x) := h.modChannel hC

theorem Framed.setAngle (h : Framed s c regs T C u) (a : Int) (hC : ∀ r, C r → C { r with angle := some a }) :
    Framed s c regs T C (u.setAngle c a) := h.modChannel hC

theorem Framed.issue (h : Framed s c regs T C u) {q : BusRequest} (hq : q.reg ∈ regs) : Framed s c regs T C (u.issue q) :=
  { h with device := fun a ha => (read_forget_ne _ (ha q.reg hq)).trans (h.device a ha) }

theorem Framed.answered (h : Framed s c regs T C u) {q : BusRequest} (hq : q.reg ∈ regs) (a : BusAnswer) (es : List BusEvent) :
    Framed s c regs T C ((u.issue q).answered q a es) :=
  { h with
    device := fun x hx => by
      rw [read_issue_answered, if_neg fun he => hx q.reg hq he.symm]
      exact h.device x hx }

theorem Framed.respond (h : Framed s c regs T C u) {st : Status} {n : Nat} {r : Operand} (ht : respond st n r u = .next t) :
    Framed s c regs T C t := by
  obtain rfl : u.deliver _ = t := Host.Outcome.next.inj ht
  exact { h with }

/-! ## The writes of a command -/

/-- A write to one of the registers, on a Bus that only answers: the frame holds in each of its ends if the answers keep it. -/
theorem Framed.shadowedWrite (h : Framed s c regs T C u) (hes : OnlyAnswers u.busEvents) {reg : RegAddr} {x n : Nat}
    {ack fail : State → State} {k : State → Result} (ht : shadowedWrite reg x n ack fail u k = .next t) (hreg : reg ∈ regs)
    (hack : ∀ v, Framed s c regs T C v → Framed s c regs T C (ack v) ∧ (ack v).busEvents = v.busEvents)
    (hfail : ∀ v, Framed s c regs T C v → Framed s c regs T C (fail v))
    (hk : ∀ v, Framed s c regs T C v → OnlyAnswers v.busEvents → k v = .next t → Framed s c regs T C t) :
    Framed s c regs T C t := by
  cases hev : u.busEvents with
  | nil =>
    rw [shadowedWrite_silent _ _ _ _ _ _ hev] at ht
    obtain rfl := Host.Outcome.next.inj ht
    exact h.issue hreg
  | cons e es =>
    obtain ⟨rfl | rfl, hes⟩ := onlyAnswers_tail (hev ▸ hes)
    · rw [shadowedWrite_ok _ _ _ _ _ _ hev] at ht
      obtain ⟨hframe, hevents⟩ := hack _ (h.answered (q := ⟨reg, _⟩) hreg .ok es)
      exact hk _ hframe (by rwa [hevents]) ht
    · rw [shadowedWrite_fail _ _ _ _ _ _ hev] at ht
      exact (hfail _ (h.answered (q := ⟨reg, _⟩) hreg .fail es)).respond ht

theorem Framed.writePw (h : Framed s c regs T C u) (hes : OnlyAnswers u.busEvents) {x n : Nat} {k : State → Result}
    (ht : writePw c x n u k = .next t) (hreg : pwReg c ∈ regs) (hC : ∀ r, C r → C (r.ackPw x) ∧ C r.failPw)
    (hk : ∀ v, Framed s c regs T C v → k v = .next t → Framed s c regs T C t) : Framed s c regs T C t :=
  h.shadowedWrite hes ht hreg (fun _ hv => ⟨hv.modChannel fun r hr => (hC r hr).1, rfl⟩)
    (fun _ hv => hv.modChannel fun r hr => (hC r hr).2) fun v hv _ => hk v hv

theorem Framed.writePsc (h : Framed s c regs T C u) (hes : OnlyAnswers u.busEvents) {p n : Nat} {k : State → Result}
    (ht : writePsc (timerOf c) p n u k = .next t) (hreg : pscReg (timerOf c) ∈ regs)
    (hT : ∀ r, T r → T (r.ackPsc p) ∧ T r.failPsc)
    (hk : ∀ v, Framed s c regs T C v → OnlyAnswers v.busEvents → k v = .next t → Framed s c regs T C t) : Framed s c regs T C t :=
  h.shadowedWrite hes ht hreg (fun _ hv => ⟨hv.modTimer fun r hr => (hT r hr).1, rfl⟩)
    (fun _ hv => hv.modTimer fun r hr => (hT r hr).2) hk

theorem Framed.writeArr (h : Framed s c regs T C u) (hes : OnlyAnswers u.busEvents) {x n : Nat} {k : State → Result}
    (ht : writeArr (timerOf c) x n u k = .next t) (hreg : arrReg (timerOf c) ∈ regs)
    (hT : ∀ r, T r → T (r.ackArr x) ∧ T r.failArr)
    (hk : ∀ v, Framed s c regs T C v → OnlyAnswers v.busEvents → k v = .next t → Framed s c regs T C t) : Framed s c regs T C t :=
  h.shadowedWrite hes ht hreg (fun _ hv => ⟨hv.modTimer fun r hr => (hT r hr).1, rfl⟩)
    (fun _ hv => hv.modTimer fun r hr => (hT r hr).2) hk

end Framed

/-- Timer programming: it may change all of its timer, and of its channel the claim (R104). -/
theorem framed_programTimer {s t : State} {c : Channel} {regs : List RegAddr} {C : ChannelRegs → Prop} {p x : Nat} {new : Claim}
    {k : State → Result} (hes : OnlyAnswers s.busEvents) (ht : programTimer c p x new s k = .next t)
    (hpsc : pscReg (timerOf c) ∈ regs) (harr : arrReg (timerOf c) ∈ regs) (hstart : C (s.channel c))
    (hC : ∀ r y, C r → C { r with req := y })
    (hk : ∀ v, Framed s c regs (fun _ => True) C v → OnlyAnswers v.busEvents → k v = .next t → Framed s c regs (fun _ => True) C t) :
    Framed s c regs (fun _ => True) C t := by
  have hbegin : Framed s c regs (fun _ => True) C (s.setReq c .unclaimed) :=
    (framed_start trivial hstart).setReq .unclaimed fun r => hC r _
  refine hbegin.writePsc hes ht hpsc (fun _ _ => ⟨trivial, trivial⟩) fun u hu hues hnext => ?_
  refine hu.writeArr hues hnext harr (fun _ _ => ⟨trivial, trivial⟩) fun v hv hves hnext' => ?_
  exact hk _ (hv.setReq new fun r => hC r _) hves hnext'

/-! ## SET_PW, SET_PW_PCT and SERVO_ANGLE -/

/-- What the three keep of their channel: the claim, and unless it is SERVO_ANGLE the angle. -/
def KeepsClaimAndAngle (s : State) (c : Channel) (setsAngle : Prop) (r : ChannelRegs) : Prop :=
  r.req = (s.channel c).req ∧ (¬ setsAngle → r.angle = (s.channel c).angle)

/-- The three commands may change their pulse-width register and nothing of their timer. -/
theorem exec_pw_framed {c : Channel} {opd : Operand} {s t : State} {i : Instr}
    (hi : i = .setPw c opd ∨ i = .setPwPct c opd ∨ i = .servoAngle c opd) (hes : OnlyAnswers s.busEvents) (ht : exec i s = .next t) :
    Framed s c [pwReg c] (· = s.timer (timerOf c)) (KeepsClaimAndAngle s c (i = .servoAngle c opd)) t := by
  have hstart : Framed s c [pwReg c] (· = s.timer (timerOf c)) (KeepsClaimAndAngle s c (i = .servoAngle c opd)) s :=
    framed_start rfl ⟨rfl, fun _ => rfl⟩
  have hreg : pwReg c ∈ [pwReg c] := List.mem_singleton_self _
  obtain rfl | rfl | rfl := hi
  · rw [exec, execSetPw] at ht
    exact hstart.writePw hes ht hreg (fun _ hr => ⟨hr, hr⟩) fun v hv => (hv.setPct none fun _ hr => hr).respond
  · rw [exec, execSetPwPct] at ht
    split at ht
    · exact hstart.respond ht
    · exact hstart.writePw hes ht hreg (fun _ hr => ⟨hr, hr⟩) fun v hv => (hv.setPct (some opd) fun _ hr => hr).respond
  · rw [exec, execServoAngle] at ht
    exact hstart.writePw hes ht hreg (fun _ hr => ⟨hr, hr⟩) fun v hv =>
      ((hv.setAngle (clampAngle (angleOperand opd)) fun _ hr => ⟨hr.1, fun h => absurd rfl h⟩).setPct none fun _ hr => hr).respond

/-- Settles O54: the frame of the three commands, with their timer kept whole. -/
theorem pulseWidthFrame : Obligations.PulseWidthFrame := by
  intro c opd s t i hi hes ht
  have h := exec_pw_framed hi hes ht
  obtain ⟨htimers, hchannels⟩ := h.same
  obtain ⟨hreq, hangle⟩ := h.channel
  refine ⟨PulseWidth.timers_ext fun j => ?_, hchannels, hreq, hangle, fun a ha => h.device a (by simpa using ha), h.conflictCheck, h.inbox⟩
  by_cases hj : j = timerOf c
  · rw [hj, h.timer]
  · exact htimers j hj

/-! ## SET_PERIOD and SET_PRESCALER -/

/-- What the two keep of their channel: everything but the claim. -/
def KeepsAllButClaim (s : State) (c : Channel) (r : ChannelRegs) : Prop := r = { s.channel c with req := r.req }

theorem keepsAllButClaim_setReq {s : State} {c : Channel} (x : Claim) (r : ChannelRegs) (h : KeepsAllButClaim s c r) :
    KeepsAllButClaim s c { r with req := x } := by
  rw [KeepsAllButClaim] at h ⊢
  rw [h]

theorem exec_setPeriod_framed {c : Channel} {n : Operand} {s t : State} (hes : OnlyAnswers s.busEvents)
    (ht : exec (.setPeriod c n) s = .next t) :
    Framed s c [arrReg (timerOf c)]
      (fun r => r.psc = (s.timer (timerOf c)).psc ∧ r.pscUns = (s.timer (timerOf c)).pscUns) (KeepsAllButClaim s c) t := by
  have hstart : Framed s c [arrReg (timerOf c)]
      (fun r => r.psc = (s.timer (timerOf c)).psc ∧ r.pscUns = (s.timer (timerOf c)).pscUns) (KeepsAllButClaim s c) s :=
    framed_start ⟨rfl, rfl⟩ rfl
  rw [exec, execSetPeriod] at ht
  split at ht
  · exact hstart.respond ht
  split at ht
  · exact hstart.respond ht
  · exact (hstart.setReq .unclaimed (keepsAllButClaim_setReq .unclaimed)).writeArr hes ht (List.mem_singleton_self _)
      (fun _ hr => ⟨hr, hr⟩) fun v hv _ => hv.respond

theorem exec_setPrescaler_framed {c : Channel} {n : Operand} {s t : State} (hes : OnlyAnswers s.busEvents)
    (ht : exec (.setPrescaler c n) s = .next t) :
    Framed s c [pscReg (timerOf c)]
      (fun r => r.arr = (s.timer (timerOf c)).arr ∧ r.arrUns = (s.timer (timerOf c)).arrUns) (KeepsAllButClaim s c) t := by
  have hstart : Framed s c [pscReg (timerOf c)]
      (fun r => r.arr = (s.timer (timerOf c)).arr ∧ r.arrUns = (s.timer (timerOf c)).arrUns) (KeepsAllButClaim s c) s :=
    framed_start ⟨rfl, rfl⟩ rfl
  rw [exec, execSetPrescaler] at ht
  split at ht
  · exact hstart.respond ht
  split at ht
  · exact hstart.respond ht
  · exact (hstart.setReq .unclaimed (keepsAllButClaim_setReq .unclaimed)).writePsc hes ht (List.mem_singleton_self _)
      (fun _ hr => ⟨hr, hr⟩) fun v hv _ => hv.respond

/-- Settles O55: the frame of each of the two commands, with the timer's other register kept. -/
theorem rawTimerWriteFrame : Obligations.RawTimerWriteFrame := by
  refine fun c n s t hes => ⟨fun ht => ?_, fun ht => ?_⟩
  · have h := exec_setPeriod_framed hes ht
    exact ⟨h.same, h.timer.1, h.timer.2, h.channel, fun a ha => h.device a (by simpa using ha), h.conflictCheck, h.inbox⟩
  · have h := exec_setPrescaler_framed hes ht
    exact ⟨h.same, h.timer.1, h.timer.2, h.channel, fun a ha => h.device a (by simpa using ha), h.conflictCheck, h.inbox⟩

/-! ## SET_FREQ and SERVO_INIT -/

theorem exec_setFreq_framed {c : Channel} {F : Operand} {s t : State} (hes : OnlyAnswers s.busEvents)
    (ht : exec (.setFreq c F) s = .next t) :
    Framed s c [pscReg (timerOf c), arrReg (timerOf c), pwReg c] (fun _ => True)
      (fun r => r.angle = (s.channel c).angle ∧ r.pct = (s.channel c).pct) t := by
  have hstart : Framed s c [pscReg (timerOf c), arrReg (timerOf c), pwReg c] (fun _ => True)
      (fun r => r.angle = (s.channel c).angle ∧ r.pct = (s.channel c).pct) s := framed_start trivial ⟨rfl, rfl⟩
  rw [exec, execSetFreq] at ht
  split at ht
  · exact hstart.respond ht
  split at ht
  · exact hstart.respond ht
  split at ht
  · exact hstart.respond ht
  · refine framed_programTimer hes ht (by simp) (by simp) ⟨rfl, rfl⟩ (fun _ _ hr => hr) fun u hu hues hnext => ?_
    rw [rederivePw] at hnext
    split at hnext
    · exact hu.respond hnext
    · exact hu.writePw hues hnext (by simp) (fun _ hr => ⟨hr, hr⟩) fun v hv => hv.respond

theorem exec_servoInit_framed {c : Channel} {s t : State} (hes : OnlyAnswers s.busEvents) (ht : exec (.servoInit c) s = .next t) :
    Framed s c [pscReg (timerOf c), arrReg (timerOf c)] (fun _ => True)
      (fun r => r.angle = (s.channel c).angle ∧ r.pw = (s.channel c).pw ∧ r.pwUns = (s.channel c).pwUns) t := by
  have hstart : Framed s c [pscReg (timerOf c), arrReg (timerOf c)] (fun _ => True)
      (fun r => r.angle = (s.channel c).angle ∧ r.pw = (s.channel c).pw ∧ r.pwUns = (s.channel c).pwUns) s :=
    framed_start trivial ⟨rfl, rfl, rfl⟩
  rw [exec, execServoInit] at ht
  split at ht
  · exact hstart.respond ht
  · exact framed_programTimer hes ht (by simp) (by simp) ⟨rfl, rfl, rfl⟩ (fun _ _ hr => hr) fun u hu _ =>
      (hu.setPct none fun _ hr => hr).respond

/-- Settles O56: the frame of each of the two commands, with what each keeps of its channel. -/
theorem timerProgrammingFrame : Obligations.TimerProgrammingFrame := by
  refine fun c F s t hes => ⟨fun ht => ?_, fun ht => ?_⟩
  · have h := exec_setFreq_framed hes ht
    obtain ⟨hangle, hpct⟩ := h.channel
    exact ⟨h.same, hangle, hpct, fun a hpsc harr hpw => h.device a (by simp [hpsc, harr, hpw]), h.conflictCheck, h.inbox⟩
  · have h := exec_servoInit_framed hes ht
    obtain ⟨hangle, hpw, huns⟩ := h.channel
    exact ⟨h.same, hangle, hpw, huns, fun a hpsc harr => h.device a (by simp [hpsc, harr]), h.conflictCheck, h.inbox⟩

end Sys2Proof.Proofs.Frames
end

section
/-! SUPPORT. What acknowledged timer programming shows: at the siblings of the channel, which share its timer (40_timer.md section 4), and at
the outputs of the device (20_memory.md R57, 42_servo.md section 3, 70_reset_and_hazards.md section 3). -/

namespace Sys2Proof.Proofs.Output

open Sys2Proof Sys2Proof.Machine Sys2Proof.Machine.Laws

/-! ## What an answered command leaves known of the device -/

/-- The writes of a command are to different registers. -/
def DistinctRegs (log : List BusRecord) : Prop := log.Pairwise fun x y => x.request.reg ≠ y.request.reg

theorem readAfter_of_forall_ne (m : Memory) {log : List BusRecord} {reg : RegAddr} (h : ∀ b ∈ log, b.request.reg ≠ reg) :
    readAfter m log reg.toNat = m.read reg.toNat := by
  induction log using List.reverseRecOn with
  | nil => rfl
  | append_singleton log r ih =>
    have hne : r.request.reg.toNat ≠ reg.toNat := fun he =>
      h r (List.mem_append_right _ List.mem_cons_self) (BitVec.eq_of_toNat_eq he)
    rw [Device.readAfter_append_singleton, if_neg hne, ih fun b hb => h b (List.mem_append_left _ hb)]

section Ended

variable {s t : State} {log : List BusRecord} {es : List BusEvent} {r : ResponseWord} {reg : RegAddr} {v : Nat}

theorem read_of_wrote (h : Ended s t log es r) (hlog : DistinctRegs log) (hmem : wrote reg v .ok ∈ log) :
    t.device.read reg.toNat = some (BitVec.ofNat 16 v) := by
  rw [h.device]
  exact Ports.readAfter_of_mem s.device hlog hmem

theorem read_of_not_wrote (h : Ended s t log es r) (hne : ∀ b ∈ log, b.request.reg ≠ reg) :
    t.device.read reg.toNat = s.device.read reg.toNat :=
  (h.device _).trans (readAfter_of_forall_ne s.device hne)

end Ended

theorem distinctRegs_timer (j : TimerIndex) (p T : Nat) :
    DistinctRegs [wrote (pscReg j) p .ok, wrote (arrReg j) T .ok] := by
  simp [DistinctRegs, wrote]

theorem distinctRegs_timer_pw (j : TimerIndex) (c : Channel) (p T w : Nat) :
    DistinctRegs [wrote (pscReg j) p .ok, wrote (arrReg j) T .ok, wrote (pwReg c) w .ok] := by
  simp [DistinctRegs, wrote, (pwReg_ne_pscReg _ _).symm, (pwReg_ne_arrReg _ _).symm]

/-! ## The waveform from the register contents -/

theorem toNat_ofNat16 {n : Nat} (h : n ≤ 65535) : (BitVec.ofNat 16 n).toNat = n := Nat.mod_eq_of_lt (Nat.lt_succ_of_le h)

section Waveform

variable {d d' : Memory} {j : TimerIndex} {c : Channel} {p T w : Nat}

theorem deviceDivider_of_read (h : d.read (pscReg j).toNat = some (BitVec.ofNat 16 (p - 1))) (hp : 1 ≤ p ∧ p ≤ 65535) :
    deviceDivider d j = some p := by
  simp only [deviceDivider, h, toNat_ofNat16 (show p - 1 ≤ 65535 by omega), Nat.sub_add_cancel hp.1]

theorem devicePeriod_of_read (h : d.read (arrReg j).toNat = some (BitVec.ofNat 16 T)) (hT : 1 ≤ T ∧ T ≤ 65535) :
    devicePeriod d j = some T := by
  simp only [devicePeriod, h, if_neg (Invariants.ofNat16_ne_zero hT), toNat_ofNat16 hT.2]

theorem outputHz_of_read (hpsc : deviceDivider d j = some p) (harr : devicePeriod d j = some T) :
    outputHz d j = some ((72000000 : ℚ) / (p * T)) := by
  simp only [outputHz, hpsc, harr, Config.clockHz, Nat.cast_ofNat]

theorem dutyFraction_of_read {w : RegValue} (hpw : d.read (pwReg c).toNat = some w) (harr : devicePeriod d (timerOf c) = some T) :
    dutyFraction d c = some ((min w.toNat T : Nat) / (T : ℚ)) := by
  simp only [dutyFraction, hpw, harr]

theorem pulseSeconds_of_read (hpw : d.read (pwReg c).toNat = some (BitVec.ofNat 16 w)) (hw : w ≤ 65535)
    (hpsc : deviceDivider d (timerOf c) = some p) (harr : devicePeriod d (timerOf c) = some T) (hle : w ≤ T) :
    pulseSeconds d c = some ((w : ℚ) * p / 72000000) := by
  simp only [pulseSeconds, hpw, hpsc, harr, toNat_ofNat16 hw, Nat.min_eq_left hle, Nat.cast_mul, Config.clockHz, Nat.cast_ofNat]

theorem dutyFraction_congr (hpw : d'.read (pwReg c).toNat = d.read (pwReg c).toNat)
    (harr : d'.read (arrReg (timerOf c)).toNat = d.read (arrReg (timerOf c)).toNat) : dutyFraction d' c = dutyFraction d c := by
  simp only [dutyFraction, devicePeriod, hpw, harr]

end Waveform

/-! ## SET_FREQ seen by its siblings -/

/-- Settles O41: the siblings' getters read the one timer that SET_FREQ left at its divider and period. -/
theorem siblingsReadBackSharedTimer : Obligations.SiblingsReadBackSharedTimer := by
  intro s c c' F r es hF hr hb hp hes hc
  obtain ⟨-, -, hprogram⟩ := Timer.setFreqProgramsTimer s c F
  obtain ⟨hok, -⟩ := hprogram r es hF hr hb
  obtain ⟨t, ht, -, htimer, -⟩ := hok hp hes
  obtain ⟨-, hpmax, -, hTmax⟩ := resolve_bounds hr
  rw [← hc] at htimer
  refine ⟨t, ht, ?_, ?_⟩
  · rw [Timer.getPeriodReadsPeriod t c' _ rfl, htimer, ← zext48_eq hTmax]
    rfl
  · rw [(Timer.getFreqReadsAchieved t c').2 _ (by rw [htimer]), htimer, toNat_ofNat16 hpmax, toNat_ofNat16 hTmax]

/-! ## The outputs -/

theorem setFreq_output {s : State} {c : Channel} {F : Operand} {r : Candidate} {es : List BusEvent} (hF : F ≠ 0)
    (hr : resolve F.toNat = some r) (hb : ¬ s.Blocked c (.freq F)) (hp : (s.channel c).pct = none) (hes : s.busEvents = .ok :: .ok :: es) :
    ∃ t, exec (.setFreq c F) s = .next t ∧ outputHz t.device (timerOf c) = some ((72000000 : ℚ) / (r.p * r.T)) := by
  obtain ⟨-, -, hprogram⟩ := Timer.setFreqProgramsTimer s c F
  obtain ⟨hok, -⟩ := hprogram r es hF hr hb
  obtain ⟨t, ht, hend, -⟩ := hok hp hes
  obtain ⟨hp1, hp2, hT⟩ := resolve_bounds hr
  have hlog := distinctRegs_timer (timerOf c) (r.p - 1) r.T
  exact ⟨t, ht, outputHz_of_read (deviceDivider_of_read (read_of_wrote hend hlog (by simp)) ⟨hp1, hp2⟩)
    (devicePeriod_of_read (read_of_wrote hend hlog (by simp)) hT)⟩

/-- Settles O57: the contents the acknowledged writes leave, and a SERVO_ANGLE that leaves the timer's two registers alone. -/
theorem programmedOutput : Obligations.ProgrammedOutput := by
  refine ⟨fun s c F r es => setFreq_output, fun s c A es hb hes => ?_⟩
  obtain ⟨-, hinit, -⟩ := Servo.servoInitProgramsCarrier s c (.ok :: es)
  obtain ⟨t, ht, hend, -⟩ := hinit hb hes
  obtain ⟨hangle, -⟩ := Servo.servoAngleWritesCount t c A es
  obtain ⟨u, hu, hend', -⟩ := hangle hend.busEvents
  have hlog := distinctRegs_timer (timerOf c) 351 4095
  have hpsc : deviceDivider u.device (timerOf c) = some 352 :=
    deviceDivider_of_read ((read_of_not_wrote hend' (by simp [wrote])).trans (read_of_wrote hend hlog (by simp))) (by decide)
  have harr : devicePeriod u.device (timerOf c) = some 4095 :=
    devicePeriod_of_read ((read_of_not_wrote hend' (by simp [wrote])).trans (read_of_wrote hend hlog (by simp))) (by decide)
  have hpw : u.device.read (pwReg c).toNat = some (BitVec.ofNat 16 (servoCount A.toInt)) :=
    read_of_wrote hend' (List.pairwise_singleton _ _) (List.mem_singleton_self _)
  have hcount := servoCount_le A.toInt
  exact ⟨t, u, ht, hu, outputHz_of_read hpsc harr, pulseSeconds_of_read hpw (by omega) hpsc harr (by omega)⟩

/-! ## Duty drift -/

/-- A command on a sibling that leaves the period register at `T` and does not write the channel's width register. -/
theorem duty_of_ended {s t : State} {c' : Channel} {w : RegValue} {T : Nat} {log : List BusRecord} {es : List BusEvent}
    {r : ResponseWord} (hw : s.device.read (pwReg c').toNat = some w) (hend : Ended s t log es r) (hlog : DistinctRegs log)
    (hpw : ∀ b ∈ log, b.request.reg ≠ pwReg c') (harr : wrote (arrReg (timerOf c')) T .ok ∈ log) (hT : 1 ≤ T ∧ T ≤ 65535) :
    dutyFraction t.device c' = some ((min w.toNat T : Nat) / (T : ℚ)) :=
  dutyFraction_of_read ((read_of_not_wrote hend hpw).trans hw) (devicePeriod_of_read (read_of_wrote hend hlog harr) hT)

/-- Settles O58: whichever command reprograms the period, a sibling's registers and width register are as before and the new period is in
the register of the shared timer. -/
theorem siblingDutyDrifts : Obligations.SiblingDutyDrifts := by
  intro s c c' w es hsib hw
  obtain ⟨hne, hgroup⟩ := hsib
  have hpw : pwReg c ≠ pwReg c' := fun h => hne (pwReg_inj.1 h).symm
  have hpsc (j : TimerIndex) : pscReg j ≠ pwReg c' := (pwReg_ne_pscReg _ _).symm
  have harr (j : TimerIndex) : arrReg j ≠ pwReg c' := (pwReg_ne_arrReg _ _).symm
  refine ⟨fun n h1 h2 hb hes => ?_, fun F r hF hr hb hes => ?_, fun hb hes => ?_, fun n h1 h2 hb hes => ?_⟩
  · obtain ⟨-, -, hok, -⟩ := Timer.setPeriodWritesPeriod s c n es
    obtain ⟨t, ht, hend, -, -, hsame⟩ := hok h1 h2 hb hes
    exact ⟨t, ht, hsame.2 c' hne, duty_of_ended hw hend (List.pairwise_singleton _ _) (by simp [wrote, harr])
      (by simp [hgroup]) ⟨h1, h2⟩⟩
  · obtain ⟨-, -, hprogram⟩ := Timer.setFreqProgramsTimer s c F
    obtain ⟨hok, hokPct, -⟩ := hprogram r es hF hr hb
    obtain ⟨-, -, hT⟩ := resolve_bounds hr
    obtain ⟨hp, hes⟩ | ⟨hp, hes⟩ := hes
    · obtain ⟨t, ht, hend, -, -, hsame⟩ := hok hp hes
      exact ⟨t, ht, hsame.2 c' hne, duty_of_ended hw hend (distinctRegs_timer _ _ _) (by simp [wrote, hpsc, harr])
        (by simp [hgroup]) hT⟩
    · obtain ⟨P, hp⟩ := Option.isSome_iff_exists.1 hp
      obtain ⟨t, ht, hend, -, -, hsame⟩ := hokPct P hp hes
      exact ⟨t, ht, hsame.2 c' hne, duty_of_ended hw hend (distinctRegs_timer_pw _ _ _ _ _)
        (by simp [wrote, hpsc, harr, hpw]) (by simp [hgroup]) hT⟩
  · obtain ⟨-, hok, -⟩ := Servo.servoInitProgramsCarrier s c es
    obtain ⟨t, ht, hend, -, -, hsame⟩ := hok hb hes
    exact ⟨t, ht, hsame.2 c' hne, duty_of_ended hw hend (distinctRegs_timer _ _ _) (by simp [wrote, hpsc, harr])
      (by simp [hgroup]) (by decide)⟩
  · obtain ⟨-, -, hok, -⟩ := Timer.setPrescalerWritesDivider s c n es
    obtain ⟨t, ht, hend, -, -, hsame⟩ := hok h1 h2 hb hes
    exact ⟨t, ht, hsame.2 c' hne, dutyFraction_congr (read_of_not_wrote hend (by simp [wrote, hpsc]))
      (read_of_not_wrote hend (by simp [wrote]))⟩

end Sys2Proof.Proofs.Output
end
